-- ==== Sys2Proof/Word.lean ====
section
/-! DEFINITION. The word types of ZCORE (00_scope.md R9, R12): 32-bit registers, 16-bit table entries, bytes. -/
namespace Sys2Proof

/-- A 32-bit register value or bus address (R9). -/
abbrev Word := BitVec 32

/-- A 16-bit table entry (R62). -/
abbrev Half := BitVec 16

/-- A byte of the data address space (R60). -/
abbrev Byte := BitVec 8

end Sys2Proof
end

