-- ==== Sys2Proof/Syntax.lean ====
section
/-! DEFINITION. The commands of ZCORE (30_encoding.md R93), one constructor per row of the opcode table. -/
namespace Sys2Proof

/-- A command. No command has a field: all operands are implicit (R91). -/
inductive Instr where
  /-- 0x00 NOP (40_command.md R117). -/
  | nop
  /-- 0x01 ADLER.UPD (41_checksum.md R131). -/
  | adlerUpd
  /-- 0x02 SLIDE (42_slide.md R171). -/
  | slide
deriving DecidableEq, Repr

end Sys2Proof
end

