-- ==== Sys2Proof/Decode.lean ====
section
/-! DEFINITION. Decoding a command word (30_encoding.md R90 to R97), then encoding. The decoder is total on 32-bit
words; a word it rejects is illegal, by name, and completes with error ILLEGAL_CMD (40_command.md R118). -/
namespace Sys2Proof

/-- Why a word is illegal (R93, R94). Both reasons end in ILLEGAL_CMD. -/
inductive Reject where
  /-- RSV = 0 and OPCODE is 0x03 to 0xFF -/
  | reservedOpcode
  /-- RSV ≠ 0 -/
  | nonzeroRsv
deriving DecidableEq, Repr

/-- OPCODE, bits 7:0 (R90). -/
def opcodeField (v : Word) : BitVec 8 := v.extractLsb' 0 8

/-- RSV, bits 31:8 (R90). -/
def rsvField (v : Word) : BitVec 24 := v.extractLsb' 8 24

/-- The opcode map (R93). -/
def opcodeOf (op : BitVec 8) : Option Instr :=
  if op = 0x00#8 then some .nop
  else if op = 0x01#8 then some .adlerUpd
  else if op = 0x02#8 then some .slide
  else none

/-- The decoder, by the fields of CMD32 (R90, R93, R94). -/
def decode (v : Word) : Except Reject Instr :=
  if rsvField v = 0#24 then
    match opcodeOf (opcodeField v) with
    | some i => .ok i
    | none => .error .reservedOpcode
  else .error .nonzeroRsv

/-- The command a word stands for, where it stands for one. -/
def decode? (v : Word) : Option Instr :=
  match decode v with
  | .ok i => some i
  | .error _ => none

/-- The word of a command (R93). -/
def encode : Instr → Word
  | .nop => 0x00000000#32
  | .adlerUpd => 0x00000001#32
  | .slide => 0x00000002#32

/-- The instruction the decoder reads from a row of the opcode table: a command is one 32-bit word (R97), bit 0 least
significant (00_scope.md R12). -/
def decodeTableWord (nbits w : Nat) : Option Instr := decode? (BitVec.ofNat 32 (w % 2 ^ nbits))

end Sys2Proof
end

