-- ==== Sys2Proof/Config.lean ====
section
/-! DEFINITION. What an implementation or a platform fixes (00_scope.md R6 to R11, R16), and the free values. -/
namespace Sys2Proof

/-- VEC_BYTES (R6): the width of one beat, written W. -/
inductive VecBytes where
  | w8
  | w16
  | w32
  | w64
deriving DecidableEq, Repr

/-- A run of byte addresses: base, base+1, ..., base+size-1. -/
structure Region where
  base : Nat
  size : Nat
deriving DecidableEq, Repr

/-- The parameters of the step (R16). No step changes them. A predicate over addresses is a list of regions. -/
structure Config where
  /-- VEC_BYTES (R6). -/
  vecBytes : VecBytes
  /-- SB_BEATS (R8); legal from 1 to KMAX(W). -/
  sbBeats : Nat
  /-- CORE_BASE (R10): host address of the 4 KiB register window. -/
  coreBase : Nat
  /-- IRQ_LINE (R10): the platform interrupt input that IRQ drives. -/
  irqLine : Nat
  /-- BUS_PROTOCOL (R10): which pin-level protocol the register port and the bus master speak. An argument only: no
  rule gives it an effect (log entry 20). -/
  busProtocol : Nat
  /-- BusErr (R10): where the platform answers the bus master with an error. -/
  busErr : List Region
  /-- Locations with read or write side effects, the window apart (20_memory.md R67). -/
  sideFx : List Region
  /-- Where an access of the bus master is never answered (40_command.md R116). -/
  unanswered : List Region
deriving DecidableEq, Repr

/-- Free bit (log entry 5): what host load number `k` finds in the byte at address `a` of a table that is being slid,
its value at issue or at completion (R74). It has no body: nothing is known of it. -/
opaque Config.freeBit (k a : Nat) : Bool

/-- Free bit (log entry 5): what ending number `k` (a BUS error or an abandonment) leaves in the byte at address `a` of a
table, its value at issue or its slid value (R173, R221). No body. -/
opaque Config.tableBit (k a : Nat) : Bool

/-- Free number (log entry 5): the choice of an address from an interval at ending number `k` (R132, R173). No body. -/
opaque Config.freeNat (k : Nat) : Nat

/-- The reference configuration, W = 16 and SB_BEATS = 663 (R6, R8), on a platform with no bus error, no
side-effect memory and no unanswered address, and the window just above the data space.
DESIGN CHOICE (log entry 2): the platform values are OPEN in the spec; no statement rests on them. -/
def Config.reference : Config :=
  { vecBytes := .w16, sbBeats := 663, coreBase := 0x100000000, irqLine := 0, busProtocol := 0
    busErr := [], sideFx := [], unanswered := [] }

end Sys2Proof
end

