-- ==== Sys2Proof/Machine/Params.lean ====
section
/-! DEFINITION. The named constants (00_scope.md R14), the numbers that follow from VEC_BYTES (R6 to R8,
41_checksum.md R142), and arithmetic on regions of addresses. -/
namespace Sys2Proof

/-- BASE = 65521 (R14). -/
def adlerBase : Nat := 65521

/-- EMPTY = 0, the sentinel entry (R14). -/
def emptyEntry : Half := 0

/-- NMAX = 5552 (R14, R141). No rule of ZCORE depends on it. -/
def nmax : Nat := 5552

/-- The condition whose largest solution is NMAX (R141). -/
def nmaxCondition (n : Nat) : Bool := 255 * n * (n + 1) / 2 + (n + 1) * (adlerBase - 1) ≤ 2 ^ 32 - 1

/-- Size of the data address space (R9, R60). -/
def addrSpace : Nat := 0x100000000

/-- Size of the register window (R22). -/
def windowSize : Nat := 0x1000

/-- log2 of VEC_BYTES, as CAP.LOG2W reports it (R25). -/
def VecBytes.log2 : VecBytes → Nat
  | .w8 => 3
  | .w16 => 4
  | .w32 => 5
  | .w64 => 6

/-- W, the number of bytes of one beat (R6). -/
def VecBytes.bytes (w : VecBytes) : Nat := 2 ^ w.log2

/-- L = W/4, the number of 32-bit lanes of the FRP (R7). -/
def VecBytes.lanes (w : VecBytes) : Nat := w.bytes / 4

/-- KMAX(W), the largest legal SB_BEATS (R8, R142). -/
def VecBytes.kmax : VecBytes → Nat
  | .w8 => 963
  | .w16 => 663
  | .w32 => 452
  | .w64 => 303

/-- The bound of R142 on t2[0] after K beats. -/
def laneBound (w : VecBytes) (k : Nat) : Nat :=
  (adlerBase - 1) + 255 * k * (4 * w.bytes - 6)
    + w.bytes * ((adlerBase - 1) * k + 510 * k * (k - 1))

/-- Does the region hold the address? -/
def Region.holds (r : Region) (a : Nat) : Bool := r.base ≤ a && a < r.base + r.size

/-- Do the region and the `n` bytes from `a` on share a byte? -/
def Region.meets (r : Region) (a n : Nat) : Bool := max r.base a < min (r.base + r.size) (a + n)

/-- A predicate over addresses, given as a list of regions. -/
def inRegions (rs : List Region) (a : Nat) : Bool := rs.any (·.holds a)

/-- The lowest address of the `n` bytes from `a` on that the region holds. -/
def Region.firstIn (r : Region) (a n : Nat) : Option Nat :=
  if r.meets a n then some (max r.base a) else none

/-- The lower of two addresses, where there is one. -/
def minAddr : Option Nat → Option Nat → Option Nat
  | none, y => y
  | x, none => x
  | some x, some y => some (min x y)

/-- The lowest address of the `n` bytes from `a` on that some region holds. -/
def firstIn (rs : List Region) (a n : Nat) : Option Nat :=
  match rs with
  | [] => none
  | r :: rest => minAddr (r.firstIn a n) (firstIn rest a n)

end Sys2Proof
end

