-- ==== Sys2Proof/Machine/HostSyntax.lean ====
section
/-! DEFINITION. What the host can do: registers by name (10_state.md R22), bus accesses, the operations of host
programs (30_encoding.md R99), and the turns agents take (00_scope.md R15). -/
namespace Sys2Proof.Machine

/-- The twelve registers of the window (R22). -/
inductive Reg where
  | id
  | cap
  | ctrl
  | status
  | cmd
  | acc
  | src
  | len
  | tbl
  | count
  | wsize
  | erraddr
deriving DecidableEq, Repr

/-- Width of a host access: 1, 2 or 4 bytes (R99). -/
inductive Width where
  | byte
  | half
  | word
deriving DecidableEq, Repr

/-- One access of a bus master in the host's address space. -/
inductive Access where
  | load (addr : Nat) (w : Width)
  | store (addr : Nat) (w : Width) (v : Word)
deriving DecidableEq, Repr

/-- The operations of a host program (R99). `rn`, `rm` are numbers of host registers; a label is a number. -/
inductive HostOp where
  /-- `wr REG, v` -/
  | wr (r : Reg) (v : Word)
  /-- `wr REG, rN` -/
  | wrReg (r : Reg) (rn : Nat)
  /-- `rd REG -> rN` -/
  | rd (r : Reg) (rn : Nat)
  /-- `poll REG, mask, val` -/
  | poll (r : Reg) (mask val : Word)
  /-- `wait_irq` -/
  | waitIrq
  /-- `st8 a, v`, `st16 a, v`, `st32 a, v` -/
  | st (w : Width) (a : Word) (v : Word)
  /-- `ld8 a -> rN`, `ld16 a -> rN`, `ld32 a -> rN` -/
  | ld (w : Width) (a : Word) (rn : Nat)
  /-- `li rN, v` -/
  | li (rn : Nat) (v : Word)
  /-- `addi rN, rM, imm` -/
  | addi (rn rm : Nat) (imm : Word)
  /-- `label:` -/
  | label (l : Nat)
  /-- `b label` -/
  | b (l : Nat)
  /-- `bnz rN, label` -/
  | bnz (rn : Nat) (l : Nat)
deriving DecidableEq, Repr

/-- The host agent that runs a program (log entry 13): its registers as a sparse map, its position, the program. -/
structure HostCpu where
  regs : List (Nat × Word)
  pos : Nat
  prog : List HostOp
deriving DecidableEq, Repr

/-- Whose step comes next (R15): the program's host, another bus master, the engine, or the reset input. -/
inductive Turn where
  | host
  | access (x : Access)
  | engine
  | reset
deriving DecidableEq, Repr

end Sys2Proof.Machine
end

