-- ==== Sys2Proof/Machine/State.lean ====
section
/-! DEFINITION. The state of ZCORE (10_state.md R50), its value right after reset (70_reset_and_hazards.md R220), and
the reasons for which the model stops. -/
namespace Sys2Proof.Machine

/-- STATUS.ERRCODE (10_state.md R40; 60_exceptions.md R190). The codes 0x5 to 0xF are never produced. -/
inductive ErrCode where
  | none
  | illegalCmd
  | align
  | range
  | bus
deriving DecidableEq, Repr

/-- The set of recorded host faults (10_state.md R49), one flag for each member. -/
structure HostFaults where
  /-- HOST_ACCESS (R44). -/
  hostAccess : Bool
  /-- HOST_RACE (20_memory.md R73). -/
  hostRace : Bool
  /-- HOST_SIDEFX (20_memory.md R67). -/
  hostSideFx : Bool
deriving DecidableEq, Repr

/-- The empty host-fault set. -/
def HostFaults.empty : HostFaults := { hostAccess := false, hostRace := false, hostSideFx := false }

/-- The data memory (20_memory.md R60): address and byte pairs, addresses rising, none equal to an unlisted byte. -/
abbrev Memory := List Host.Cell

/-- The whole machine. ID and CAP are not stored (they never change); the words STATUS and CTRL and the IRQ level are
computed from the fields (log entry 21). -/
structure State where
  /-- the parameters (00_scope.md R16); no step changes them -/
  cfg : Config
  /-- CTRL.IE_DONE (R26) -/
  ieDone : Bool
  /-- CTRL.IE_ERR (R26) -/
  ieErr : Bool
  /-- CTRL.IE_OVR (R26) -/
  ieOvr : Bool
  /-- STATUS.BUSY (R36) -/
  busy : Bool
  /-- STATUS.DONE (R37) -/
  done : Bool
  /-- STATUS.ERR (R38) -/
  err : Bool
  /-- STATUS.OVR (R39) -/
  ovr : Bool
  /-- STATUS.ERRCODE (R40) -/
  errcode : ErrCode
  /-- CMD, the last accepted command word (R34, R47) -/
  cmd : Word
  /-- ACC (R27) -/
  acc : Word
  /-- SRC (R28) -/
  src : Word
  /-- LEN (R29) -/
  len : Word
  /-- TBL (R30) -/
  tbl : Word
  /-- COUNT (R31) -/
  count : Word
  /-- WSIZE (R32) -/
  wsize : Word
  /-- ERRADDR (R33) -/
  erraddr : Word
  /-- the data memory (R60) -/
  mem : Memory
  /-- the host-fault set (R49) -/
  hostFaults : HostFaults
  /-- the model's own: the number of the next host load that draws free values (log entry 5) -/
  draws : Nat
  /-- the model's own: the number of the next ending of a command that draws free values (log entry 5). Host loads leave
  it, so that what a busy SLIDE will leave in its table is settled while they read (R74) -/
  endDraws : Nat
  /-- the model's own: the data the last host read returned (log entry 14) -/
  readData : Word
  /-- the model's own: the host agent that runs a program (log entry 13) -/
  host : HostCpu
  /-- the model's own: the turns to come (log entry 1) -/
  schedule : List Turn
deriving DecidableEq, Repr

/-- The machine right after reset (R220). Every register value is the spec's. DESIGN CHOICE: the reference
configuration and its platform (log entry 2), empty memory (log entry 3), and the model's own fields (log entries 1,
5, 13, 14). -/
def State.reset : State :=
  { cfg := Config.reference
    ieDone := false, ieErr := false, ieOvr := false
    busy := false, done := false, err := false, ovr := false, errcode := .none
    cmd := 0#32, acc := 1#32, src := 0#32, len := 0#32
    tbl := 0#32, count := 0#32, wsize := 0#32, erraddr := 0#32
    mem := [], hostFaults := HostFaults.empty
    draws := 0, endDraws := 0, readData := 0#32
    host := { regs := [], pos := 0, prog := [] }
    schedule := [] }

/-- Why the model stops with a fault. No command raises one. -/
inductive Fault where
  /-- Raised by a host load or store that reaches outside the 2^32-byte data space and outside the window (R60;
  log entry 12). Safe: the spec gives such an address no meaning, and the model says nothing of the run after it. -/
  | outsideAddressSpace
deriving DecidableEq, Repr

/-- Why the model gives no meaning. No command raises one. -/
inductive Refusal where
  /-- An instruction not modelled yet, by its mnemonic. Raised by no arm of this model. Safe. -/
  | notModelled (mnemonic : String)
  /-- Raised by a host load or store of a side-effect location: another device, which the spec does not describe
  (60_exceptions.md R204; log entry 12). Safe: the model says nothing of the run after it. -/
  | hostDevice
  /-- Raised by a host program that branches to a label it does not define (R99; log entry 13). Safe: such a program
  has no meaning in the notation. -/
  | undefinedLabel
deriving DecidableEq, Repr

end Sys2Proof.Machine
end

