-- ==== Sys2Proof/Machine/Operands.lean ====
section
/-! DEFINITION. The implicit operands of the commands (30_encoding.md R91, R92), the operand checks (41_checksum.md
R131; 42_slide.md R172), and the ranges a command accesses or owns (20_memory.md R68, R73). -/
namespace Sys2Proof.Machine

/-- Does a range of `n` bytes from `a` on end inside the data space? Computed without wrap (R70, R193). -/
def rangeFits (a n : Nat) : Bool := a + n ≤ addrSpace

/-- Address of data byte `i` of ADLER.UPD (R92). -/
def State.dataAddr (s : State) (i : Nat) : Nat := s.src.toNat + i

/-- Address of table entry `i` of SLIDE (R92). -/
def State.entryAddr (s : State) (i : Nat) : Nat := s.tbl.toNat + 2 * i

/-- The byte range of the data of ADLER.UPD: [SRC, SRC+LEN). -/
def State.dataRange (s : State) : Region := { base := s.src.toNat, size := s.len.toNat }

/-- The byte range of the table of SLIDE: [TBL, TBL+2*COUNT). -/
def State.tableRange (s : State) : Region := { base := s.tbl.toNat, size := 2 * s.count.toNat }

/-- TBL[0] = 1 (R172, first check). -/
def State.tblOdd (s : State) : Bool := s.tbl.getLsbD 0

/-- The range of ADLER.UPD passes its check (R131). -/
def State.dataFits (s : State) : Bool := rangeFits s.src.toNat s.len.toNat

/-- The range of SLIDE passes its check (R172, second check). -/
def State.tableFits (s : State) : Bool := rangeFits s.tbl.toNat (2 * s.count.toNat)

/-- The bytes a command accesses if no access fails (R68): none for NOP, after a failed check, or for length 0. -/
def State.accessRange (s : State) : Instr → Option Region
  | .nop => none
  | .adlerUpd => if s.dataFits && s.len != 0#32 then some s.dataRange else none
  | .slide => if !s.tblOdd && s.tableFits && s.count != 0#32 then some s.tableRange else none

/-- The bytes the engine owns (R73): while BUSY = 1, the operand range of the command being run. By the letter of
R73, whether or not the command will pass its checks (log entry 15). -/
def State.ownedRange (s : State) : Option Region :=
  if s.busy then
    match decode? s.cmd with
    | some .adlerUpd => some s.dataRange
    | some .slide => some s.tableRange
    | _ => none
  else none

/-- The table a busy SLIDE is updating: its range, once the checks pass and COUNT ≥ 1. -/
def State.slidTable (s : State) : Option Region :=
  if s.busy then
    match decode? s.cmd with
    | some .slide => s.accessRange .slide
    | _ => none
  else none

end Sys2Proof.Machine
end

