-- ==== Sys2Proof/Machine/Ops.lean ====
section
/-! DEFINITION. The named operations over memory and registers: sparse maps, bytes and little-endian groups of bytes,
the slide and the checksum functions over memory, the bus's answer, and the life cycle of a command (issue,
successful completion, error completion, acknowledgement). -/
namespace Sys2Proof.Machine

/-! ## Sparse maps: memory and host registers -/

/-- What an unlisted key reads as. DESIGN CHOICE: zero (log entry 3). -/
def unlisted {w : Nat} : BitVec w := 0#w

/-- Read one key. -/
def readAt {w : Nat} (m : List (Nat × BitVec w)) (a : Nat) : BitVec w :=
  match m with
  | [] => unlisted
  | (k, v) :: rest => if k = a then v else readAt rest a

/-- Put a pair in front, but for the value an unlisted key reads as. -/
def consAt {w : Nat} (a : Nat) (v : BitVec w) (rest : List (Nat × BitVec w)) : List (Nat × BitVec w) :=
  if v = unlisted then rest else (a, v) :: rest

/-- Write one key, keeping the canonical form. -/
def writeAt {w : Nat} (m : List (Nat × BitVec w)) (a : Nat) (v : BitVec w) : List (Nat × BitVec w) :=
  match m with
  | [] => consAt a v []
  | (k, x) :: rest =>
    if a < k then consAt a v ((k, x) :: rest)
    else if a = k then consAt a v rest
    else (k, x) :: writeAt rest a v

/-- The canonical form: keys strictly rising, no entry equal to what an unlisted key reads as. -/
def mapWf {w : Nat} (m : List (Nat × BitVec w)) : Bool :=
  match m with
  | [] => true
  | (k, v) :: rest => v != unlisted && rest.all (fun c => k < c.1) && mapWf rest

/-- The canonical form of memory: a canonical map whose addresses lie in the 2^32-byte data space (20_memory.md R60). -/
def Memory.wf (m : Memory) : Bool := mapWf m && m.all (fun c => c.1 < addrSpace)

/-! ## Bytes and groups of bytes -/

/-- One byte of memory. -/
def readByte (m : Memory) (a : Nat) : Byte := readAt m a

/-- Store one byte. -/
def writeByte (m : Memory) (a : Nat) (v : Byte) : Memory := writeAt m a v

/-- MemRead(a, n), little-endian (00_scope.md R13). -/
def memRead (m : Memory) (a : Nat) : Nat → Nat
  | 0 => 0
  | n + 1 => (readByte m a).toNat + 256 * memRead m (a + 1) n

/-- MemWrite(a, n, v), little-endian (R13). -/
def memWrite (m : Memory) (a : Nat) (n v : Nat) : Memory :=
  match n with
  | 0 => m
  | n + 1 => memWrite (writeByte m a (BitVec.ofNat 8 v)) (a + 1) n (v / 256)

/-- The `n` bytes from `a` on, in ascending order (20_memory.md R61). -/
def readBytes (m : Memory) (a : Nat) : Nat → List Byte
  | 0 => []
  | n + 1 => readByte m a :: readBytes m (a + 1) n

/-- A table entry (20_memory.md R62). -/
def readEntry (m : Memory) (a : Nat) : Half := BitVec.ofNat 16 (memRead m a 2)

/-- Store a table entry (R62). -/
def writeEntry (m : Memory) (a : Nat) (v : Half) : Memory := memWrite m a 2 v.toNat

/-! ## ADLER (41_checksum.md R130) -/

/-- The running pair (s1, s2) of the scalar definition. -/
structure Sums where
  s1 : Nat
  s2 : Nat
deriving DecidableEq, Repr

/-- The pair a seed holds: s1 in bits 15:0, s2 in bits 31:16. -/
def Sums.ofSeed (seed : Word) : Sums := { s1 := seed.toNat % 0x10000, s2 := seed.toNat / 0x10000 }

/-- One byte of the loop. -/
def Sums.absorb (p : Sums) (b : Byte) : Sums :=
  { s1 := (p.s1 + b.toNat) % adlerBase
    s2 := (p.s2 + (p.s1 + b.toNat) % adlerBase) % adlerBase }

/-- (s2 << 16) | s1. -/
def Sums.pack (p : Sums) : Word := BitVec.ofNat 32 (p.s2 <<< 16 ||| p.s1)

/-- ADLER(seed, data), the scalar definition. -/
def adler (seed : Word) (data : List Byte) : Word :=
  match data with
  | [] => seed
  | b :: rest => ((b :: rest).foldl Sums.absorb (Sums.ofSeed seed)).pack

/-! ## SLIDE1 (42_slide.md R170) and the slide over memory -/

/-- SLIDE1(m, w): m - w where m ≥ w, else EMPTY. -/
def slide1 (m : Half) (w : Word) : Half :=
  if w ≤ m.setWidth 32 then m - w.setWidth 16 else emptyEntry

/-- Slide `n` entries from `a` on, in ascending order: each read once and written once (20_memory.md R68, R69). -/
def slideFrom (m : Memory) (w : Word) (a n : Nat) : Memory :=
  match n with
  | 0 => m
  | n + 1 => slideFrom (writeEntry m a (slide1 (readEntry m a) w)) w (a + 2) n

/-- The value a successful slide of the table at `tbl` gives the byte at `a` (of the table). -/
def slidByte (m : Memory) (w : Word) (tbl a : Nat) : Byte :=
  let p := a - (a - tbl) % 2
  let v := slide1 (readEntry m p) w
  if (a - tbl) % 2 = 0 then v.extractLsb' 0 8 else v.extractLsb' 8 8

/-- What ending number `k` leaves in the byte at `a` of a table: old or slid (R173, R221). -/
def mixByte (old : Memory) (w : Word) (tbl k a : Nat) : Byte :=
  if Config.tableBit k a then slidByte old w tbl a else readByte old a

/-- Bytes a .. a+n-1 of a table as ending number `k` leaves them. -/
def mixSlide (old : Memory) (w : Word) (tbl k : Nat) (m : Memory) (a n : Nat) : Memory :=
  match n with
  | 0 => m
  | n + 1 => mixSlide old w tbl k (writeByte m a (mixByte old w tbl k a)) (a + 1) n

/-- The memory after an abandoned or failed SLIDE: each byte of the table old or slid. -/
def State.mixedMem (s : State) : Memory :=
  mixSlide s.mem s.wsize s.tbl.toNat s.endDraws s.mem s.tbl.toNat (2 * s.count.toNat)

/-! ## Draws -/

/-- The next ending draws new values (log entry 5). -/
def State.nextEnding (s : State) : State := { s with endDraws := s.endDraws + 1 }

/-- A free address of the interval [lo, hi] (R132, R173). -/
def drawAddr (k lo hi : Nat) : Word := BitVec.ofNat 32 (lo + Config.freeNat k % (hi - lo + 1))

/-! ## The bus's answer to the accesses of a command -/

/-- How the bus answers a command's accesses (R116, R132, R173). -/
inductive BusReply where
  /-- every access answered with data -/
  | ok
  /-- some access answered with an error; the lowest byte of the range with BusErr -/
  | error (e : Nat)
  /-- some access never answered, and none before it with an error -/
  | hang
deriving DecidableEq, Repr

/-- The answer for a range of `n` bytes from `a` on, in the ascending order of R69, taken as accesses of `g` bytes: the
bytes of ADLER.UPD, the entries of SLIDE. An access that holds a byte with BusErr is answered, with an error (R10), so
the first access with either kind of byte decides, whatever W is (00_scope.md R6; log entry 10). -/
def busReply (c : Config) (a n g : Nat) : BusReply :=
  match firstIn c.busErr a n, firstIn c.unanswered a n with
  | none, none => .ok
  | some e, none => .error e
  | none, some _ => .hang
  | some e, some u => if e / g ≤ u / g then .error e else .hang

/-- The answer to the reads of ADLER.UPD (R132). -/
def State.dataReply (s : State) : BusReply := busReply s.cfg s.src.toNat s.len.toNat 1

/-- The answer to the accesses of SLIDE (R173). -/
def State.tableReply (s : State) : BusReply := busReply s.cfg s.tbl.toNat (2 * s.count.toNat) 2

/-- The lowest start address a failing access can have, where the range starts at `a` and `e` is its lowest byte with
BusErr: max(a, e - e mod W) (R132, R173). -/
def busAddrLow (c : Config) (a e : Nat) : Nat := max a (e - e % c.vecBytes.bytes)

/-! ## Host faults (10_state.md R49) -/

def State.recordAccess (s : State) : State := { s with hostFaults := { s.hostFaults with hostAccess := true } }

def State.recordRace (s : State) : State := { s with hostFaults := { s.hostFaults with hostRace := true } }

def State.recordSideFx (s : State) : State := { s with hostFaults := { s.hostFaults with hostSideFx := true } }

/-! ## The life cycle of a command (40_command.md) -/

/-- Does the range cover the register window or a side-effect location (20_memory.md R67)? -/
def coversSideFx (c : Config) (r : Region) : Bool :=
  Region.meets { base := c.coreBase, size := windowSize } r.base r.size
    || (firstIn c.sideFx r.base r.size).isSome

/-- Would the command word `v`, issued now, access memory with side effects (R67)? -/
def State.issueCovers (s : State) (v : Word) : Bool :=
  match decode? v with
  | some i => (match s.accessRange i with
    | some r => coversSideFx s.cfg r
    | none => false)
  | none => false

/-- The registers after an issue of `v` (R110). -/
def State.latch (s : State) (v : Word) : State :=
  { s with cmd := v, done := false, err := false, errcode := .none, busy := true }

/-- Issue of `v` (R110), which records HOST_SIDEFX where the command's range covers side-effect memory (R67; log
entry 9). -/
def State.issue (s : State) (v : Word) : State :=
  if s.issueCovers v then (s.latch v).recordSideFx else s.latch v

/-- Successful completion (R114). -/
def State.complete (s : State) : State := { s with busy := false, done := true }

/-- Error completion, `raise Error(code, addr)` (R115): the exception of this hardware. It saves the code in ERRCODE
and the address, where given, in ERRADDR; it changes no mode and transfers no control (60_exceptions.md R198). -/
def State.raiseError (s : State) (code : ErrCode) (addr : Option Word) : State :=
  { s with busy := false, done := true, err := true, errcode := code, erraddr := addr.getD s.erraddr }

/-- The "return": the host acknowledges an error by writing 1 to STATUS.ERR (60_exceptions.md R200). The other way,
the next issue, is `State.issue`. -/
def State.acknowledge (s : State) : State := { s with err := false, errcode := .none }

/-- A host write that BUSY drops (10_state.md R43). -/
def State.dropWrite (s : State) : State := { s with ovr := true }

end Sys2Proof.Machine
end

