-- ==== Sys2Proof/Machine/Checksum.lean ====
section
/-! DEFINITION. ADLER.UPD (41_checksum.md R131, R132). -/
namespace Sys2Proof.Machine

/-- The bytes ADLER.UPD absorbs (R131). -/
def State.data (s : State) : List Byte := readBytes s.mem s.src.toNat s.len.toNat

/-- The successful end: ACC <- ADLER(ACC, data), written at completion (R131, R114). -/
def adlerDone (s : State) : State := { s.complete with acc := adler s.acc s.data }

/-- A bus error whose lowest byte is `e` (R132): no further access, ACC unchanged, ERRADDR drawn from
[max(SRC, e - e mod W), e]. -/
def adlerBusError (s : State) (e : Nat) : State :=
  (s.raiseError .bus (some (drawAddr s.endDraws (busAddrLow s.cfg s.src.toNat e) e))).nextEnding

/-- ADLER.UPD (R131): the range check, length 0, then the reads. An access never answered leaves the engine stuck
(40_command.md R116). -/
def execAdlerUpd (s : State) : Host.Outcome State Fault Refusal :=
  if !s.dataFits then .next (s.raiseError .range (some s.src))
  else if s.len = 0#32 then .next s.complete
  else
    match s.dataReply with
    | .ok => .next (adlerDone s)
    | .error e => .next (adlerBusError s e)
    | .hang => .next s

end Sys2Proof.Machine
end

