-- ==== Sys2Proof/Machine/Control.lean ====
section
/-! DEFINITION. NOP and illegal words (40_command.md R117, R118). -/
namespace Sys2Proof.Machine

/-- NOP (R117): complete successfully with no register result. -/
def execNop (s : State) : Host.Outcome State Fault Refusal := .next s.complete

/-- An illegal command word (R118): `raise Error(ILLEGAL_CMD)` with no address. -/
def execIllegal (s : State) : Host.Outcome State Fault Refusal := .next (s.raiseError .illegalCmd none)

end Sys2Proof.Machine
end

