-- ==== Sys2Proof/Machine/Slide.lean ====
section
/-! DEFINITION. SLIDE (42_slide.md R171 to R173). -/
namespace Sys2Proof.Machine

/-- The successful end: every entry slid, no register result (R171, R114). -/
def slideDone (s : State) : State :=
  { s.complete with mem := slideFrom s.mem s.wsize s.tbl.toNat s.count.toNat }

/-- The address of the entry that holds byte `e` (R173). -/
def State.entryOf (s : State) (e : Nat) : Nat := e - (e - s.tbl.toNat) % 2

/-- A bus error whose lowest byte is `e` (R173): no further access, ERRADDR drawn from [max(TBL, e - e mod W), p]
with p the address of its entry, and each byte of the table old or slid, drawn for each byte. -/
def slideBusError (s : State) (e : Nat) : State :=
  { (s.raiseError .bus
      (some (drawAddr s.endDraws (busAddrLow s.cfg s.tbl.toNat e) (s.entryOf e)))).nextEnding with
    mem := s.mixedMem }

/-- SLIDE (R171, R172): ALIGN, then RANGE, then COUNT = 0, then the entries. An access never answered leaves the
engine stuck (40_command.md R116). -/
def execSlide (s : State) : Host.Outcome State Fault Refusal :=
  if s.tblOdd then .next (s.raiseError .align (some s.tbl))
  else if !s.tableFits then .next (s.raiseError .range (some s.tbl))
  else if s.count = 0#32 then .next s.complete
  else
    match s.tableReply with
    | .ok => .next (slideDone s)
    | .error e => .next (slideBusError s e)
    | .hang => .next s

end Sys2Proof.Machine
end

