-- ==== Sys2Proof/Machine/Dispatch.lean ====
section
/-! DEFINITION. The meaning of each command, one arm per constructor (40_command.md R111). -/
namespace Sys2Proof.Machine

def exec (i : Instr) (s : State) : Host.Outcome State Fault Refusal :=
  match i with
  | .nop => Sys2Proof.Machine.execNop s
  | .adlerUpd => Sys2Proof.Machine.execAdlerUpd s
  | .slide => Sys2Proof.Machine.execSlide s

end Sys2Proof.Machine
end

