-- ==== Sys2Proof/Machine/Flags.lean ====
section
/-! DEFINITION. The words STATUS, CTRL, ID and CAP as software sees them, the write-one-to-clear write of STATUS, the
write of CTRL, and the IRQ level (10_state.md R24 to R26, R35 to R41; 60_exceptions.md R196). -/
namespace Sys2Proof.Machine

/-- The four bits of an error code (R40, R190). -/
def ErrCode.code : ErrCode → BitVec 4
  | .none => 0x0#4
  | .illegalCmd => 0x1#4
  | .align => 0x2#4
  | .range => 0x3#4
  | .bus => 0x4#4

/-- STATUS as read (R35): bits 31:8 zero, then ERRCODE, OVR, ERR, DONE, BUSY. -/
def State.statusWord (s : State) : Word :=
  0#24 ++ s.errcode.code ++ BitVec.ofBool s.ovr ++ BitVec.ofBool s.err
    ++ BitVec.ofBool s.done ++ BitVec.ofBool s.busy

/-- CTRL as read (R26): bits 31:3 zero, then IE_OVR, IE_ERR, IE_DONE. -/
def State.ctrlWord (s : State) : Word :=
  0#29 ++ BitVec.ofBool s.ieOvr ++ BitVec.ofBool s.ieErr ++ BitVec.ofBool s.ieDone

/-- ID (R24): PART 0xAD32, REV 0x0001. -/
def idWord : Word := 0xAD32#16 ++ 0x0001#16

/-- CAP (R25): SB_BEATS in 25:16, WIDE_WSIZE = 1 in bit 4, LOG2W in 3:0, zeros elsewhere. -/
def capWord (c : Config) : Word :=
  0#6 ++ BitVec.ofNat 10 c.sbBeats ++ 0#11 ++ 1#1 ++ BitVec.ofNat 4 c.vecBytes.log2

/-- The IRQ level (R196), a function of STATUS and CTRL. -/
def State.irq (s : State) : Bool :=
  (s.done && s.ieDone) || (s.err && s.ieErr) || (s.ovr && s.ieOvr)

/-- The level ZCORE puts on a platform interrupt input: IRQ on IRQ_LINE, nothing on any other (R10, R196). -/
def State.irqInput (s : State) (line : Nat) : Bool := line == s.cfg.irqLine && s.irq

/-- A host write of `v` to STATUS (R41): each of DONE, ERR and OVR is cleared where its bit of `v` is 1, and ERRCODE
with ERR. -/
def State.writeStatus (s : State) (v : Word) : State :=
  { (if v.getLsbD 2 then s.acknowledge else s) with
    done := s.done && !v.getLsbD 1
    ovr := s.ovr && !v.getLsbD 3 }

/-- A host write of `v` to CTRL (R26). -/
def State.writeCtrl (s : State) (v : Word) : State :=
  { s with ieDone := v.getLsbD 0, ieErr := v.getLsbD 1, ieOvr := v.getLsbD 2 }

end Sys2Proof.Machine
end

