-- ==== Sys2Proof/WellFormed.lean ====
section
/-! DEFINITION. Well-formedness: of commands (they have no field, so each is well formed), of configurations
(00_scope.md R6, R8) and of host programs (30_encoding.md R99). -/
namespace Sys2Proof

/-- A command carries no field (R91), so there is nothing to check. -/
def Instr.wf : Instr → Bool
  | .nop => true
  | .adlerUpd => true
  | .slide => true

/-- A legal configuration: 1 ≤ SB_BEATS ≤ KMAX(W) (R8). VEC_BYTES is legal by its type (R6). -/
def Config.legal (c : Config) : Bool := 1 ≤ c.sbBeats && c.sbBeats ≤ c.vecBytes.kmax

namespace Machine

/-- Number of bytes of a host access. -/
def Width.bytes : Width → Nat
  | .byte => 1
  | .half => 2
  | .word => 4

/-- Check one operation against the labels the program defines: a branch names a defined label, and a memory access
lies inside the data space. -/
def HostOp.wf (labels : List Nat) : HostOp → Bool
  | .wr _ _ => true
  | .wrReg _ _ => true
  | .rd _ _ => true
  | .poll _ _ _ => true
  | .waitIrq => true
  | .st w a _ => a.toNat + w.bytes ≤ addrSpace
  | .ld w a _ => a.toNat + w.bytes ≤ addrSpace
  | .li _ _ => true
  | .addi _ _ _ => true
  | .label _ => true
  | .b l => labels.contains l
  | .bnz _ l => labels.contains l

/-- The labels a program defines, in order. -/
def labelsOf : List HostOp → List Nat
  | [] => []
  | .label l :: rest => l :: labelsOf rest
  | _ :: rest => labelsOf rest

/-- A well-formed host program: each operation is, and no label is defined twice. -/
def programWf (p : List HostOp) : Bool := p.all (HostOp.wf (labelsOf p)) && decide (labelsOf p).Nodup

end Machine
end Sys2Proof
end

