-- ==== Sys2Proof/Machine/Port.lean ====
section
/-! DEFINITION. The host's bus: the register window (10_state.md R22, R23, R42 to R44) and the data memory
(20_memory.md R73, R74). -/
namespace Sys2Proof.Machine

/-- Offset of a register in the window (R22). -/
def Reg.offset : Reg → Nat
  | .id => 0x000
  | .cap => 0x004
  | .ctrl => 0x008
  | .status => 0x00C
  | .cmd => 0x010
  | .acc => 0x014
  | .src => 0x018
  | .len => 0x01C
  | .tbl => 0x020
  | .count => 0x024
  | .wsize => 0x028
  | .erraddr => 0x02C

/-- The register at an offset; none at a reserved one (R22, R23). -/
def regAt (off : Nat) : Option Reg :=
  match off with
  | 0x000 => some .id
  | 0x004 => some .cap
  | 0x008 => some .ctrl
  | 0x00C => some .status
  | 0x010 => some .cmd
  | 0x014 => some .acc
  | 0x018 => some .src
  | 0x01C => some .len
  | 0x020 => some .tbl
  | 0x024 => some .count
  | 0x028 => some .wsize
  | 0x02C => some .erraddr
  | _ => none

/-- What a register reads as. -/
def State.regRead (s : State) : Reg → Word
  | .id => idWord
  | .cap => capWord s.cfg
  | .ctrl => s.ctrlWord
  | .status => s.statusWord
  | .cmd => s.cmd
  | .acc => s.acc
  | .src => s.src
  | .len => s.len
  | .tbl => s.tbl
  | .count => s.count
  | .wsize => s.wsize
  | .erraddr => s.erraddr

/-- A write that BUSY = 1 drops (R43). -/
def State.unlessBusy (s s' : State) : State := if s.busy then s.dropWrite else s'

/-- A host write to a register: read-only ones ignore it (R23), CTRL and STATUS take it at any time (R26, R41), CMD
and the operand registers only while BUSY = 0 (R34, R43). -/
def State.regWrite (s : State) (r : Reg) (v : Word) : State :=
  match r with
  | .id => s
  | .cap => s
  | .ctrl => s.writeCtrl v
  | .status => s.writeStatus v
  | .cmd => s.unlessBusy (s.issue v)
  | .acc => s.unlessBusy { s with acc := v }
  | .src => s.unlessBusy { s with src := v }
  | .len => s.unlessBusy { s with len := v }
  | .tbl => s.unlessBusy { s with tbl := v }
  | .count => s.unlessBusy { s with count := v }
  | .wsize => s.unlessBusy { s with wsize := v }
  | .erraddr => s

/-- A word read of the window at an offset; reserved offsets read 0 (R23). -/
def State.portRead (s : State) (off : Nat) : Word :=
  match regAt off with
  | some r => s.regRead r
  | none => 0#32

/-- A word write of the window at an offset; reserved offsets ignore it (R23). -/
def State.portWrite (s : State) (off : Nat) (v : Word) : State :=
  match regAt off with
  | some r => s.regWrite r v
  | none => s

/-- Where an access of a bus master goes. -/
inductive Target where
  /-- an aligned word access of the window, at this offset (R44) -/
  | port (off : Nat)
  /-- an access of the window that R44 does not admit -/
  | badPort
  /-- the data memory -/
  | memory
  /-- a location with side effects that is not the window -/
  | device
  /-- no such address -/
  | nowhere
deriving DecidableEq, Repr

/-- The register window (R22). -/
def Config.window (c : Config) : Region := { base := c.coreBase, size := windowSize }

/-- Decode a host address (R22, R44, R60; log entries 11, 12). -/
def target (c : Config) (a : Nat) (w : Width) : Target :=
  if (Config.window c).meets a w.bytes then
    if w = .word ∧ c.coreBase ≤ a ∧ (a - c.coreBase) % 4 = 0 then .port (a - c.coreBase) else .badPort
  else if addrSpace < a + w.bytes then .nowhere
  else if (firstIn c.sideFx a w.bytes).isSome then .device
  else .memory

/-- The value at completion of the byte at `a` of a table that a SLIDE is updating (R74): slid, or, where the SLIDE will
end in a BUS error, what that ending leaves. A stuck SLIDE has no completion: slid (log entry 22). -/
def State.endByte (s : State) (a : Nat) : Byte :=
  match s.tableReply with
  | .ok => slidByte s.mem s.wsize s.tbl.toNat a
  | .error _ => mixByte s.mem s.wsize s.tbl.toNat s.endDraws a
  | .hang => slidByte s.mem s.wsize s.tbl.toNat a

/-- What the host reads in one byte of memory (R74): of a table that a SLIDE is updating, the value at issue or at
completion, as load number `k` draws; of any other byte, its value. -/
def State.hostByte (s : State) (k a : Nat) : Byte :=
  match s.slidTable with
  | some t => if t.holds a && Config.freeBit k a then s.endByte a else readByte s.mem a
  | none => readByte s.mem a

/-- What the host reads in `n` bytes, little-endian (R99). -/
def State.hostBytes (s : State) (k a : Nat) : Nat → Nat
  | 0 => 0
  | n + 1 => (s.hostByte k a).toNat + 256 * s.hostBytes k (a + 1) n

/-- A host load from memory. Each load has a draw of its own (R74). -/
def State.loadMem (s : State) (a n : Nat) : State :=
  { s with readData := BitVec.ofNat 32 (s.hostBytes s.draws a n), draws := s.draws + 1 }

/-- Do the `n` bytes from `a` on hold a byte that the busy command owns (R73)? -/
def State.racesAt (s : State) (a n : Nat) : Bool :=
  match s.ownedRange with
  | some r => r.meets a n
  | none => false

/-- A host store to memory; on an owned byte HOST_RACE is recorded (R73; log entry 8). -/
def State.storeMem (s : State) (a n : Nat) (v : Word) : State :=
  { (if s.racesAt a n then s.recordRace else s) with mem := memWrite s.mem a n v.toNat }

/-- One load of a bus master; the data goes to readData. An access R44 does not admit has no effect but the record. -/
def busLoad (s : State) (a : Nat) (w : Width) : Host.Outcome State Fault Refusal :=
  match target s.cfg a w with
  | .port off => .next { s with readData := s.portRead off }
  | .badPort => .next s.recordAccess
  | .memory => .next (s.loadMem a w.bytes)
  | .device => .refused .hostDevice
  | .nowhere => .fault .outsideAddressSpace

/-- One store of a bus master. -/
def busStore (s : State) (a : Nat) (w : Width) (v : Word) : Host.Outcome State Fault Refusal :=
  match target s.cfg a w with
  | .port off => .next (s.portWrite off v)
  | .badPort => .next s.recordAccess
  | .memory => .next (s.storeMem a w.bytes v)
  | .device => .refused .hostDevice
  | .nowhere => .fault .outsideAddressSpace

/-- One access of a bus master (20_memory.md R77: each is one atomic step). -/
def busAccess (s : State) : Access → Host.Outcome State Fault Refusal
  | .load a w => busLoad s a w
  | .store a w v => busStore s a w v

end Sys2Proof.Machine
end

