-- ==== Sys2Proof/Machine/HostProgram.lean ====
section
/-! DEFINITION. Host programs (30_encoding.md R98 to R100): one operation is one host step; the pseudo-instructions. -/
namespace Sys2Proof.Machine

/-- Go on after an outcome that is a next state. -/
def andThen (o : Host.Outcome State Fault Refusal) (f : State → Host.Outcome State Fault Refusal) :
    Host.Outcome State Fault Refusal :=
  match o with
  | .next s => f s
  | .fault r => .fault r
  | .refused r => .refused r

/-- A host register. -/
def State.hostReg (s : State) (n : Nat) : Word := readAt s.host.regs n

/-- Write a host register. -/
def State.setHostReg (s : State) (n : Nat) (v : Word) : State :=
  { s with host := { s.host with regs := writeAt s.host.regs n v } }

/-- Set the program's position. -/
def State.setPos (s : State) (p : Nat) : State := { s with host := { s.host with pos := p } }

/-- The next operation of the program. -/
def State.advance (s : State) : State := s.setPos (s.host.pos + 1)

/-- The position of a label. R99 does not say where a branch goes in a program that defines a label twice. DESIGN CHOICE
(log entry 13): its first definition. -/
def findLabel (l : Nat) : List HostOp → Option Nat
  | [] => none
  | op :: rest => if op = .label l then some 0 else (findLabel l rest).map (· + 1)

/-- Branch to a label. -/
def branchTo (s : State) (l : Nat) : Host.Outcome State Fault Refusal :=
  match findLabel l s.host.prog with
  | some p => .next (s.setPos p)
  | none => .refused .undefinedLabel

/-- Host address of a register (R99). -/
def State.regAddr (s : State) (r : Reg) : Nat := s.cfg.coreBase + r.offset

/-- `wr`: a 32-bit write to a register, then the next operation. -/
def hostWr (s : State) (r : Reg) (v : Word) : Host.Outcome State Fault Refusal :=
  andThen (busStore s (s.regAddr r) .word v) fun t => .next t.advance

/-- `rd`: a 32-bit read of a register into a host register, then the next operation. -/
def hostRd (s : State) (r : Reg) (rn : Nat) : Host.Outcome State Fault Refusal :=
  andThen (busLoad s (s.regAddr r) .word) fun t => .next (t.setHostReg rn t.readData).advance

/-- `poll`: one read of its loop; the next operation once (REG & mask) = val. -/
def hostPoll (s : State) (r : Reg) (mask val : Word) : Host.Outcome State Fault Refusal :=
  andThen (busLoad s (s.regAddr r) .word) fun t =>
    .next (if t.readData &&& mask = val then t.advance else t)

/-- `ld`: a load into a host register. An access R44 does not admit has no effect: it writes no register. -/
def hostLd (s : State) (w : Width) (a : Word) (rn : Nat) : Host.Outcome State Fault Refusal :=
  andThen (busLoad s a.toNat w) fun t =>
    .next (if target s.cfg a.toNat w = .badPort then t.advance
      else (t.setHostReg rn t.readData).advance)

/-- One operation of a host program (R99). -/
def execHostOp (op : HostOp) (s : State) : Host.Outcome State Fault Refusal :=
  match op with
  | .wr r v => hostWr s r v
  | .wrReg r rn => hostWr s r (s.hostReg rn)
  | .rd r rn => hostRd s r rn
  | .poll r mask val => hostPoll s r mask val
  | .waitIrq => .next (if s.irqInput s.cfg.irqLine then s.advance else s)
  | .st w a v => andThen (busStore s a.toNat w v) fun t => .next t.advance
  | .ld w a rn => hostLd s w a rn
  | .li rn v => .next (s.setHostReg rn v).advance
  | .addi rn rm imm => .next (s.setHostReg rn (s.hostReg rm + imm)).advance
  | .label _ => .next s.advance
  | .b l => branchTo s l
  | .bnz rn l => if s.hostReg rn = 0#32 then .next s.advance else branchTo s l

/-- The host's turn: the operation at the program's position; nothing once the program has ended. -/
def hostTurn (s : State) : Host.Outcome State Fault Refusal :=
  match s.host.prog[s.host.pos]? with
  | some op => execHostOp op s
  | none => .next s

/-- `.cmd <mnemonic>`: a write of the command's word to CMD (R98). -/
def HostOp.issue (i : Instr) : HostOp := .wr .cmd (encode i)

/-- `poll STATUS, 0x1, 0x0`: wait for BUSY to clear. -/
def HostOp.pollIdle : HostOp := .poll .status 0x1 0x0

/-- `adler32 seed, src, len` (R100). -/
def adler32Ops (seed src len : Word) : List HostOp :=
  [.wr .acc seed, .wr .src src, .wr .len len, HostOp.issue .adlerUpd, HostOp.pollIdle]

/-- `adler32.cont src, len` (R100). -/
def adler32ContOps (src len : Word) : List HostOp :=
  [.wr .src src, .wr .len len, HostOp.issue .adlerUpd, HostOp.pollIdle]

/-- `slide16 tbl, count, wsize` (R100). -/
def slide16Ops (tbl count wsize : Word) : List HostOp :=
  [.wr .tbl tbl, .wr .count count, .wr .wsize wsize, HostOp.issue .slide, HostOp.pollIdle]

/-- `nop.sync` (R100). -/
def nopSyncOps : List HostOp := [HostOp.issue .nop, HostOp.pollIdle]

end Sys2Proof.Machine
end

