-- ==== Sys2Proof/Machine/Agents.lean ====
section
/-! DEFINITION. The steps of the agents (00_scope.md R15): the engine, the reset input, and which of them moves. -/
namespace Sys2Proof.Machine

/-- The engine's turn (40_command.md R111): a busy engine decodes the latched word, performs the command and
completes it, in one step (20_memory.md R83; log entry 4). An idle engine has no step. -/
def engineTurn (s : State) : Host.Outcome State Fault Refusal :=
  if s.busy then
    match decode s.cmd with
    | .ok i => exec i s
    | .error _ => execIllegal s
  else .next s

/-- The registers after reset (70_reset_and_hazards.md R220). ID, CAP, memory, the host-fault set and all that is not
ZCORE's are not touched. -/
def State.clearRegs (s : State) : State :=
  { s with
    ieDone := false, ieErr := false, ieOvr := false
    busy := false, done := false, err := false, ovr := false, errcode := .none
    cmd := 0#32, acc := 1#32, src := 0#32, len := 0#32
    tbl := 0#32, count := 0#32, wsize := 0#32, erraddr := 0#32 }

/-- The reset input (R220). A SLIDE that it abandons leaves each byte of its table old or slid (R221). -/
def resetTurn (s : State) : State :=
  match s.slidTable with
  | some _ => { s.clearRegs.nextEnding with mem := s.mixedMem }
  | none => s.clearRegs

/-- One agent's turn. -/
def takeTurn (t : Turn) (s : State) : Host.Outcome State Fault Refusal :=
  match t with
  | .host => hostTurn s
  | .access x => busAccess s x
  | .engine => engineTurn s
  | .reset => .next (resetTurn s)

/-- Whose turn it is (log entry 1): the schedule's, and when it is empty the engine's while it is busy, else the
host's. -/
def State.turn (s : State) : Turn :=
  match s.schedule with
  | t :: _ => t
  | [] => if s.busy then .engine else .host

/-- The schedule without the turn being taken. -/
def State.popTurn (s : State) : State := { s with schedule := s.schedule.tail }

/-- The machine about to run the word `v`: latched as an issue latches it (R110), and the engine to move next. -/
def State.fetching (s : State) (v : Word) : State :=
  { s.issue v with schedule := .engine :: s.schedule }

end Sys2Proof.Machine
end

