-- ==== Sys2Proof/Machine/Step.lean ====
section
/-! DEFINITION. The step: one turn of one agent. -/
namespace Sys2Proof.Machine

/-- One step of the machine. -/
def step (s : State) : Host.Outcome State Fault Refusal := takeTurn s.turn s.popTurn

/-- The machine whose very next step runs the command word `w` (log entry 7): ZCORE fetches nothing, a command runs
once its word is latched in CMD by an issue (10_state.md R21, 40_command.md R110). -/
def State.withFetchWord (s : State) (nbits w : Nat) : State := s.fetching (BitVec.ofNat 32 (w % 2 ^ nbits))

end Sys2Proof.Machine
end

