-- ==== Sys2Proof/Machine/Reduce.lean ====
section
/-! DEFINITION. The modular reduction tree, MRT (41_checksum.md R143 to R146): the reference datapath's 32-bit
arithmetic. -/
namespace Sys2Proof.Machine

/-- BASE as a 32-bit value. -/
def baseWord : Word := BitVec.ofNat 32 adlerBase

/-- CHOP (R143), with its 32-bit wrap. -/
def chop (x : Word) : Word := (x &&& 0xffff#32) - (x >>> 16) + ((x >>> 16) <<< 4)

/-- One conditional subtract of BASE. -/
def subBase (y : Word) : Word := if baseWord ≤ y then y - baseWord else y

/-- MODRED (R144): chop twice, then one conditional subtract. -/
def modred (x : Word) : Word := subBase (chop (chop x))

/-- MODADD (R145). -/
def modadd (x y : Word) : Word := subBase (x + y)

/-- One adder level of the tree (R146): neighbours added in pairs. -/
def mrtLevel : List Word → List Word
  | x :: y :: rest => modadd x y :: mrtLevel rest
  | rest => rest

/-- `k` adder levels. -/
def mrtLevels (k : Nat) (t : List Word) : List Word :=
  match k with
  | 0 => t
  | k + 1 => mrtLevels k (mrtLevel t)

/-- MRT (R146): L reducers, then log2 L adder levels, with L = W/4. -/
def mrt (w : VecBytes) (t : List Word) : Word := (mrtLevels (w.log2 - 2) (t.map modred)).headD 0

end Sys2Proof.Machine
end

