-- ==== Sys2Proof/Machine/Frp.lean ====
section
/-! DEFINITION. The fold-and-reduce pipeline, FRP (41_checksum.md R133 to R140, R147): the reference datapath that
computes what ADLER.UPD writes to ACC. Its internal state (10_state.md R45) is the values these functions pass on. -/
namespace Sys2Proof.Machine

/-- The scalar pair s1, s2 as 32-bit registers (R45). -/
structure Pair where
  s1 : Word
  s2 : Word
deriving DecidableEq, Repr

/-- One lane's accumulators (R45, R136). -/
structure Lane where
  vs1 : Word
  vs2 : Word
  vs1r : Word
deriving DecidableEq, Repr

/-- Length of the head (R133). -/
def headLen (w : VecBytes) (src len : Nat) : Nat := min len ((w.bytes - src % w.bytes) % w.bytes)

/-- Number of middle beats (R133). -/
def beatCount (w : VecBytes) (src len : Nat) : Nat := (len - headLen w src len) / w.bytes

/-- Length of the tail (R133). -/
def tailLen (w : VecBytes) (src len : Nat) : Nat :=
  len - headLen w src len - beatCount w src len * w.bytes

/-- Seed entry (R134). -/
def Pair.ofSeed (seed : Word) : Pair :=
  { s1 := modred (seed &&& 0xffff#32), s2 := modred (seed >>> 16) }

/-- The scalar step of a head or tail byte (R135). -/
def Pair.scalarStep (p : Pair) (b : Byte) : Pair :=
  let s1 := subBase (p.s1 + b.setWidth 32)
  { s1 := s1, s2 := subBase (p.s2 + s1) }

/-- The lanes at a super-block start (R137). -/
def startLanes (w : VecBytes) (p : Pair) : List Lane :=
  { vs1 := p.s1, vs2 := p.s2, vs1r := 0 }
    :: List.replicate (w.lanes - 1) { vs1 := 0, vs2 := 0, vs1r := 0 }

/-- The beat step of one lane (R138), where its first byte has weight `wt` (R139): (a), (b), (c). -/
def Lane.beat (l : Lane) (wt : Nat) (b0 b1 b2 b3 : Byte) : Lane :=
  { vs1r := l.vs1r + l.vs1
    vs1 := l.vs1 + b0.setWidth 32 + b1.setWidth 32 + b2.setWidth 32 + b3.setWidth 32
    vs2 := l.vs2 + BitVec.ofNat 32 wt * b0.setWidth 32 + BitVec.ofNat 32 (wt - 1) * b1.setWidth 32
      + BitVec.ofNat 32 (wt - 2) * b2.setWidth 32 + BitVec.ofNat 32 (wt - 3) * b3.setWidth 32 }

/-- The beat step of all lanes (R136, R138): byte j of the beat belongs to lane j div 4, weight W - j; `wt` is the
weight of the first byte left. -/
def beatStep (wt : Nat) (lanes : List Lane) (beat : List Byte) : List Lane :=
  match lanes, beat with
  | l :: ls, b0 :: b1 :: b2 :: b3 :: bs => l.beat wt b0 b1 b2 b3 :: beatStep (wt - 4) ls bs
  | ls, _ => ls

/-- The super-block end (R140): t1 and t2, each reduced by the tree. -/
def endPair (w : VecBytes) (lanes : List Lane) : Pair :=
  { s1 := mrt w (lanes.map (·.vs1))
    s2 := mrt w (lanes.map (fun l => l.vs2 + BitVec.ofNat 32 w.bytes * l.vs1r)) }

/-- One super-block (R137, R138, R140). -/
def superBlock (w : VecBytes) (p : Pair) (beats : List (List Byte)) : Pair :=
  endPair w (beats.foldl (beatStep w.bytes) (startLanes w p))

/-- The middle, in super-blocks of at most SB_BEATS beats (R137); `fuel` bounds the number of super-blocks. -/
def middle (w : VecBytes) (sb : Nat) (fuel : Nat) (p : Pair) (beats : List (List Byte)) : Pair :=
  match fuel, beats with
  | 0, _ => p
  | _, [] => p
  | fuel + 1, beats => middle w sb fuel (superBlock w p (beats.take sb)) (beats.drop sb)

/-- The first `n` beats of some bytes. -/
def beatsOf (w : VecBytes) (n : Nat) (data : List Byte) : List (List Byte) :=
  match n with
  | 0 => []
  | n + 1 => data.take w.bytes :: beatsOf w n (data.drop w.bytes)

/-- Pack (R147). -/
def Pair.pack (p : Pair) : Word := (p.s2 <<< 16) ||| p.s1

/-- The pipeline on data that starts at address `src`: seed entry, head, middle, tail, pack. With no byte it does not
run (R134). -/
def frp (w : VecBytes) (sb : Nat) (seed : Word) (src : Nat) (data : List Byte) : Word :=
  if data = [] then seed
  else
    let h := headLen w src data.length
    let n := beatCount w src data.length
    let p := (data.take h).foldl Pair.scalarStep (Pair.ofSeed seed)
    let q := middle w sb n p (beatsOf w n (data.drop h))
    ((data.drop (h + n * w.bytes)).foldl Pair.scalarStep q).pack

end Sys2Proof.Machine
end

