-- ==== Sys2Proof/Machine/Scu.lean ====
section
/-! DEFINITION. The subtract-clamp unit, SCU (42_slide.md R174 to R176): the reference datapath that computes what
SLIDE writes to the table. -/
namespace Sys2Proof.Machine

/-- Number of head entries (R174): those before the first W-aligned address. -/
def headEntries (w : VecBytes) (tbl count : Nat) : Nat :=
  min count ((w.bytes - tbl % w.bytes) % w.bytes / 2)

/-- Number of middle beats of W/2 entries (R174). -/
def entryBeats (w : VecBytes) (tbl count : Nat) : Nat :=
  (count - headEntries w tbl count) / (w.bytes / 2)

/-- The narrow path (R175): unsigned saturating subtraction in a 16-bit lane. -/
def satsub16 (m w16 : Half) : Half := if w16 ≤ m then m - w16 else 0

/-- The wide path (R176): widen to 32 bits, compare, subtract, narrow back. -/
def wideLane (m : Half) (wsize : Word) : Half :=
  (if wsize ≤ m.setWidth 32 then m.setWidth 32 - wsize else 0#32).setWidth 16

/-- One lane of the SCU: the narrow path for WSIZE < 2^16, else the wide path. -/
def scuLane (wsize : Word) (m : Half) : Half :=
  if wsize < 0x10000#32 then satsub16 m (wsize.extractLsb' 0 16) else wideLane m wsize

/-- The middle: beat by beat, every lane of a beat at once. -/
def scuBeats (lanes : Nat) (wsize : Word) (n : Nat) (entries : List Half) : List Half :=
  match n with
  | 0 => []
  | n + 1 => (entries.take lanes).map (scuLane wsize) ++ scuBeats lanes wsize n (entries.drop lanes)

/-- The unit on the entries of the table at `tbl`: head and tail entries one at a time by the scalar form, the middle
by lanes. -/
def scu (w : VecBytes) (tbl : Nat) (wsize : Word) (entries : List Half) : List Half :=
  let h := headEntries w tbl entries.length
  let n := entryBeats w tbl entries.length
  (entries.take h).map (slide1 · wsize)
    ++ scuBeats (w.bytes / 2) wsize n (entries.drop h)
    ++ (entries.drop (h + n * (w.bytes / 2))).map (slide1 · wsize)

/-- The entries of the table at `a`, in ascending order. -/
def readEntries (m : Memory) (a : Nat) : Nat → List Half
  | 0 => []
  | n + 1 => readEntry m a :: readEntries m (a + 2) n

end Sys2Proof.Machine
end

