-- ==== Sys2Proof/Safety.lean ====
section
/-! DEFINITION. What counts as a safe run, in the terms claims use: no host fault recorded (10_state.md R49), the
invariant of the model, runs, and the store that a host is about to make. -/
namespace Sys2Proof.Machine

/-- No host fault is recorded: the premise of every claim about the block (R49). -/
abbrev State.noHostFault (s : State) : Prop := s.hostFaults = HostFaults.empty

/-- The invariant of the model: what a state that no run reaches could break. -/
structure State.Inv (s : State) : Prop where
  /-- the configuration is legal (00_scope.md R6, R8) -/
  legal : s.cfg.legal = true
  /-- memory is in canonical form, inside the data space (20_memory.md R60) -/
  memWf : Memory.wf s.mem = true
  /-- the host's registers are in canonical form -/
  regsWf : mapWf s.host.regs = true
  /-- ERRCODE is NONE exactly while ERR = 0 (10_state.md R40) -/
  codeIffErr : s.errcode = .none ↔ s.err = false
  /-- while a command runs, DONE and ERR are 0, since its issue cleared them (70_reset_and_hazards.md R231) -/
  busyClear : s.busy = true → s.done = false ∧ s.err = false

/-- Reaching a state by some number of steps. -/
inductive Steps : State → State → Prop where
  | refl (s : State) : Steps s s
  | tail {s t u : State} (h : Steps s t) (hs : step t = .next u) : Steps s u

/-- A safe run: from a state that meets the invariant, with no host fault recorded at its end. -/
def SafeRun (s t : State) : Prop := s.Inv ∧ Steps s t ∧ t.noHostFault

/-- The store that an operation of a host program makes: address, width, data (30_encoding.md R99). -/
def State.opStore (s : State) : HostOp → Option (Nat × Width × Word)
  | .wr r v => some (s.regAddr r, .word, v)
  | .wrReg r rn => some (s.regAddr r, .word, s.hostReg rn)
  | .st w a v => some (a.toNat, w, v)
  | .rd _ _ => none
  | .poll _ _ _ => none
  | .waitIrq => none
  | .ld _ _ _ => none
  | .li _ _ => none
  | .addi _ _ _ => none
  | .label _ => none
  | .b _ => none
  | .bnz _ _ => none

/-- The store that the next step makes, where it is a host's and makes one. -/
def State.nextStore (s : State) : Option (Nat × Width × Word) :=
  match s.turn with
  | .access (.store a w v) => some (a, w, v)
  | .host => s.host.prog[s.host.pos]?.bind s.opStore
  | .access (.load _ _) => none
  | .engine => none
  | .reset => none

/-- The next step is a host's word write of `v` to register `r`. -/
def State.writesNext (s : State) (r : Reg) (v : Word) : Prop := s.nextStore = some (s.regAddr r, .word, v)

end Sys2Proof.Machine
end

