-- ==== Sys2Proof/Certificates/Slice0/Obligations.lean ====
section
/-! DEFINITION. The statements about ZCORE, for the provers. A claim about the block takes "no host fault recorded" as
a premise (10_state.md R49): State.noHostFault. Record updates name every field that changes, so each equation with a
next state is its own frame. The fields draws, endDraws, readData, host and schedule are the model's own (log entries
1, 5, 13, 14). -/
open Sys2Proof Sys2Proof.Machine

namespace Sys2Proof.Machine

/-- Every access to the `n` bytes from `a` on is answered with data: no BusErr, none unanswered. -/
def Quiet (c : Config) (a n : Nat) : Prop :=
  ∀ x, a ≤ x → x < a + n → inRegions c.busErr x = false ∧ inRegions c.unanswered x = false

/-- The size of the accesses whose order decides between an error and an access never answered (log entry 10): a byte
of ADLER.UPD, an entry of SLIDE. -/
def accessBytes : Instr → Nat
  | .nop => 1
  | .adlerUpd => 1
  | .slide => 2

/-- `e` is the lowest byte of the range with BusErr, and no unanswered byte lies in an earlier access of `g` bytes. -/
def FirstError (c : Config) (a n g e : Nat) : Prop :=
  (a ≤ e ∧ e < a + n) ∧ inRegions c.busErr e = true ∧
  (∀ x, a ≤ x → x < e → inRegions c.busErr x = false) ∧
  (∀ x, a ≤ x → x < a + n → inRegions c.unanswered x = true → e / g ≤ x / g)

/-- Some byte of a group of `n` bytes from `a` on lies in the register window. -/
def InWindow (c : Config) (a n : Nat) : Prop :=
  ∃ x, (a ≤ x ∧ x < a + n) ∧ c.coreBase ≤ x ∧ x < c.coreBase + 0x1000

/-- The group lies in the data space, outside the window and outside every side-effect location. -/
def PlainMemory (c : Config) (a n : Nat) : Prop :=
  a + n ≤ 2 ^ 32 ∧ ¬ InWindow c a n ∧ ∀ x, a ≤ x → x < a + n → inRegions c.sideFx x = false

/-- Some byte of the group is owned by the busy command (20_memory.md R73). -/
def Owned (s : State) (a n : Nat) : Prop :=
  s.busy = true ∧ ∃ x, (a ≤ x ∧ x < a + n) ∧
    ((decode? s.cmd = some .adlerUpd ∧ s.src.toNat ≤ x ∧ x < s.src.toNat + s.len.toNat) ∨
     (decode? s.cmd = some .slide ∧ s.tbl.toNat ≤ x ∧ x < s.tbl.toNat + 2 * s.count.toNat))

/-- The step is a host's. -/
def HostMoves (s : State) : Prop := s.turn = .host ∨ ∃ x, s.turn = .access x

end Sys2Proof.Machine

/-! ## Encoding -/

/-- R95: decode is total and gives the three commands their words, every other word ILLEGAL; every word is accepted for
issue while BUSY = 0. -/
def Obligations.DecodeIsTheWordTable : Prop :=
  (∀ v : Word, decode? v =
    if v = 0x00000000#32 then some .nop
    else if v = 0x00000001#32 then some .adlerUpd
    else if v = 0x00000002#32 then some .slide
    else none) ∧
  (∀ (s : State) (v : Word), s.noHostFault → s.busy = false →
    ∃ t, busStore s (s.cfg.coreBase + 0x010) .word v = .next t ∧ t.cmd = v ∧ t.busy = true)

/-- Decode and encode agree: a word decodes to a command exactly when it is the command's word (R93). -/
def Obligations.DecodeEncodeAgree : Prop :=
  ∀ (i : Instr) (v : Word), i.wf = true → (decode? v = some i ↔ v = encode i)

/-- The words of R93, written out, and four illegal words of R93 and R94. -/
def Obligations.WordsDecodeAsTheSpecSays : Prop :=
  decode 0x00000000#32 = .ok .nop ∧ decode 0x00000001#32 = .ok .adlerUpd ∧ decode 0x00000002#32 = .ok .slide ∧
  decode 0x00000003#32 = .error .reservedOpcode ∧ decode 0x000000FF#32 = .error .reservedOpcode ∧
  decode 0x00000101#32 = .error .nonzeroRsv ∧ decode 0x80000000#32 = .error .nonzeroRsv

/-! ## Reset -/

/-- R220: what the reset input leaves, from any state, read through the port; IRQ; ID, CAP and the host-fault set; and
memory, but for a busy SLIDE, of which R221 speaks. -/
def Obligations.ResetLeavesTheResetValues : Prop :=
  ∀ s : State, ∃ t, takeTurn .reset s = .next t ∧
    t.portRead 0x000 = 0xAD320001#32 ∧ t.portRead 0x004 = s.portRead 0x004 ∧ t.portRead 0x008 = 0#32 ∧
    t.portRead 0x00C = 0#32 ∧ t.portRead 0x010 = 0#32 ∧ t.portRead 0x014 = 0x00000001#32 ∧
    t.portRead 0x018 = 0#32 ∧ t.portRead 0x01C = 0#32 ∧ t.portRead 0x020 = 0#32 ∧ t.portRead 0x024 = 0#32 ∧
    t.portRead 0x028 = 0#32 ∧ t.portRead 0x02C = 0#32 ∧ t.irq = false ∧ t.hostFaults = s.hostFaults ∧
    (s.busy = false ∨ decode? s.cmd ≠ some .slide → t.mem = s.mem)

/-- R221: a reset while BUSY abandons the command. The table of an abandoned SLIDE holds, byte by byte, the value at
issue or the slid value; no other byte changes; an abandoned ADLER.UPD changes no memory, and a SLIDE whose operands fail
its checks none either (log entry 17: the model's inference from R68). -/
def Obligations.ResetWhileBusyAbandons : Prop :=
  ∀ s : State, s.noHostFault → Memory.wf s.mem = true → s.busy = true →
    ∃ t, takeTurn .reset s = .next t ∧ t.busy = false ∧ t.done = false ∧ t.acc = 1#32 ∧
      (∀ r, decode? s.cmd = some .slide → s.accessRange .slide = some r → ∀ a,
        if r.holds a then
          readByte t.mem a = readByte s.mem a ∨
            readByte t.mem a = readByte (slideFrom s.mem s.wsize s.tbl.toNat s.count.toNat) a
        else readByte t.mem a = readByte s.mem a) ∧
      ((decode? s.cmd ≠ some .slide ∨ s.accessRange .slide = none) → t.mem = s.mem)

/-! ## The invariant -/

/-- Every step keeps the invariant of the model: legal configuration, memory in canonical form inside the data space,
ERRCODE NONE exactly while ERR = 0 (R40), DONE and ERR clear while BUSY (R231). -/
def Obligations.StepKeepsTheInvariant : Prop :=
  ∀ s t : State, s.Inv → step s = .next t → t.Inv

/-- The state after reset meets the invariant. It rests on the model's choice of configuration (log entry 2) and of
empty memory (log entry 3). -/
def Obligations.ResetMeetsTheInvariant : Prop := State.reset.Inv

/-! ## The step -/

/-- A step runs the latched command: when it is the engine's turn and BUSY = 1, the step is exec of the command CMD
decodes to (R111), after taking the turn off the schedule; an idle engine has no step (R15); the word given to
withFetchWord is the one that runs (log entry 7). -/
def Obligations.StepRunsTheLatchedCommand : Prop :=
  ∀ (s : State) (i : Instr),
    (s.turn = .engine → s.busy = true → decode? s.cmd = some i → step s = exec i s.popTurn) ∧
    (s.turn = .engine → s.busy = false → step s = .next s.popTurn) ∧
    step (s.withFetchWord 32 (encode i).toNat) = exec i (s.issue (encode i))

/-! ## Commands -/

/-- R117: NOP completes successfully with no result, and changes nothing else; issued, it clears the previous DONE, ERR
and ERRCODE and leaves OVR. -/
def Obligations.NopCompletes : Prop :=
  ∀ s : State, s.noHostFault →
    exec .nop s = .next { s with busy := false, done := true } ∧
    (s.busy = false → ∃ t u, busStore s (s.cfg.coreBase + 0x010) .word 0x00000000#32 = .next t ∧
      t.statusWord.getLsbD 0 = true ∧ t.done = false ∧ t.err = false ∧ t.errcode = .none ∧ t.ovr = s.ovr ∧
      engineTurn t = .next u ∧
      u = { s with cmd := 0x00000000#32, busy := false, done := true, err := false, errcode := .none } ∧
      u.statusWord = if s.ovr then 0x0000000A#32 else 0x00000002#32)

/-- R118: an illegal word is issued like any other and completes with ILLEGAL_CMD, no address, no memory access; issued
while BUSY = 1 it is dropped with OVR. -/
def Obligations.IllegalWordCompletesWithError : Prop :=
  ∀ (s : State) (v : Word), s.noHostFault → 0x00000002#32 < v →
    (s.busy = false → ∃ t, busStore s (s.cfg.coreBase + 0x010) .word v = .next t ∧ t.done = false ∧ t.err = false ∧
      engineTurn t = .next { s with cmd := v, busy := false, done := true, err := true, errcode := .illegalCmd }) ∧
    (s.busy = true → busStore s (s.cfg.coreBase + 0x010) .word v = .next { s with ovr := true })

/-- R131 and R132: ADLER.UPD, word 0x00000001. RANGE error; length 0; the checksum of the bytes in ascending order;
BUS error, with ERRADDR in its interval and ACC unchanged. The checksum is the scalar definition of R130. -/
def Obligations.AdlerUpdResult : Prop :=
  decode 0x00000001#32 = .ok .adlerUpd ∧ ∀ s : State, s.noHostFault →
    (2 ^ 32 < s.src.toNat + s.len.toNat → exec .adlerUpd s = .next
      { s with busy := false, done := true, err := true, errcode := .range, erraddr := s.src }) ∧
    (s.len = 0#32 → exec .adlerUpd s = .next { s with busy := false, done := true }) ∧
    (s.src.toNat + s.len.toNat ≤ 2 ^ 32 → Quiet s.cfg s.src.toNat s.len.toNat → exec .adlerUpd s = .next
      { s with busy := false, done := true,
               acc := adler s.acc ((List.range s.len.toNat).map fun i => readByte s.mem (s.src.toNat + i)) }) ∧
    (∀ e, s.src.toNat + s.len.toNat ≤ 2 ^ 32 → FirstError s.cfg s.src.toNat s.len.toNat (accessBytes .adlerUpd) e →
      ∃ a : Word, (max s.src.toNat (e - e % s.cfg.vecBytes.bytes) ≤ a.toNat ∧ a.toNat ≤ e) ∧
        exec .adlerUpd s = .next
          { s with busy := false, done := true, err := true, errcode := .bus, erraddr := a,
                   endDraws := s.endDraws + 1 })

/-- R171 to R173: SLIDE, word 0x00000002. ALIGN whatever COUNT; then RANGE; then COUNT = 0; then every entry m becomes
m - WSIZE where m ≥ WSIZE, else 0, no other byte changes, and no register but STATUS; BUS error: ERRADDR lies between
max(TBL, e - e mod W) and the address of e's entry, each byte of the table holds its value at issue or the value a
successful SLIDE writes, and no other byte changes. -/
def Obligations.SlideResult : Prop :=
  decode 0x00000002#32 = .ok .slide ∧ ∀ s : State, s.noHostFault → Memory.wf s.mem = true →
    (s.tbl.toNat % 2 = 1 → exec .slide s = .next
      { s with busy := false, done := true, err := true, errcode := .align, erraddr := s.tbl }) ∧
    (s.tbl.toNat % 2 = 0 → 2 ^ 32 < s.tbl.toNat + 2 * s.count.toNat → exec .slide s = .next
      { s with busy := false, done := true, err := true, errcode := .range, erraddr := s.tbl }) ∧
    (s.tbl.toNat % 2 = 0 → s.count = 0#32 → exec .slide s = .next { s with busy := false, done := true }) ∧
    (s.tbl.toNat % 2 = 0 → s.tbl.toNat + 2 * s.count.toNat ≤ 2 ^ 32 →
      Quiet s.cfg s.tbl.toNat (2 * s.count.toNat) →
      ∃ t, exec .slide s = .next t ∧ t = { s with busy := false, done := true, mem := t.mem } ∧
        (∀ i < s.count.toNat, (readEntry t.mem (s.tbl.toNat + 2 * i)).toNat =
          if s.wsize.toNat ≤ (readEntry s.mem (s.tbl.toNat + 2 * i)).toNat
          then (readEntry s.mem (s.tbl.toNat + 2 * i)).toNat - s.wsize.toNat else 0) ∧
        (∀ b, ¬ (s.tbl.toNat ≤ b ∧ b < s.tbl.toNat + 2 * s.count.toNat) →
          readByte t.mem b = readByte s.mem b)) ∧
    (∀ e, s.tbl.toNat % 2 = 0 → s.tbl.toNat + 2 * s.count.toNat ≤ 2 ^ 32 →
      FirstError s.cfg s.tbl.toNat (2 * s.count.toNat) (accessBytes .slide) e →
      ∃ (t : State) (a : Word), exec .slide s = .next t ∧
        (max s.tbl.toNat (e - e % s.cfg.vecBytes.bytes) ≤ a.toNat ∧ a.toNat ≤ e - (e - s.tbl.toNat) % 2) ∧
        t = { s with busy := false, done := true, err := true, errcode := .bus, erraddr := a,
                     mem := t.mem, endDraws := s.endDraws + 1 } ∧
        ∀ b, if s.tbl.toNat ≤ b ∧ b < s.tbl.toNat + 2 * s.count.toNat then
            readByte t.mem b = readByte s.mem b ∨
              readByte t.mem b = readByte (slideFrom s.mem s.wsize s.tbl.toNat s.count.toNat) b
          else readByte t.mem b = readByte s.mem b)

/-- R116: where an access of a command is never answered, and every byte with BusErr lies in a later access, the engine
is stuck: its turn changes nothing, and BUSY stays 1. (The size of an access here is the model's choice: log entry 10.) -/
def Obligations.UnansweredAccessLeavesBusy : Prop :=
  ∀ (s : State) (i : Instr) (r : Region) (u : Nat), s.noHostFault → s.busy = true → decode? s.cmd = some i →
    s.accessRange i = some r → r.holds u = true → inRegions s.cfg.unanswered u = true →
    (∀ x, r.holds x = true → inRegions s.cfg.busErr x = true → u / accessBytes i < x / accessBytes i) →
    engineTurn s = .next s

/-- R116, R234: a busy command completes at the engine's next turn, provided the bus answers every access the command
makes, with data or with an error. (One engine turn performs a whole command: log entry 4.) -/
def Obligations.AnsweredCommandCompletes : Prop :=
  ∀ s : State, s.noHostFault → s.busy = true → s.turn = .engine →
    (∀ i r x, decode? s.cmd = some i → s.accessRange i = some r → r.holds x = true →
      inRegions s.cfg.unanswered x = false) →
    ∃ t, step s = .next t ∧ t.busy = false ∧ t.done = true

/-- R114 and R115, over all commands: an engine turn on a busy engine leaves it stuck, or ends the command with BUSY = 0
and DONE = 1, CMD, CTRL, OVR and the operand registers unchanged; then either without error, ERR, ERRCODE and ERRADDR
unchanged, or with ERR = 1 and a code, ACC unchanged, and ERRADDR unchanged for ILLEGAL_CMD. -/
def Obligations.EngineTurnEndsTheCommand : Prop :=
  ∀ s t : State, s.noHostFault → s.busy = true → engineTurn s = .next t →
    t = s ∨
    (t.busy = false ∧ t.done = true ∧ t.cmd = s.cmd ∧ t.ovr = s.ovr ∧ t.ctrlWord = s.ctrlWord ∧
     t.src = s.src ∧ t.len = s.len ∧ t.tbl = s.tbl ∧ t.count = s.count ∧ t.wsize = s.wsize ∧
     ((t.err = s.err ∧ t.errcode = s.errcode ∧ t.erraddr = s.erraddr) ∨
      (t.err = true ∧ t.errcode ≠ .none ∧ t.acc = s.acc ∧
        (t.errcode = .illegalCmd → t.erraddr = s.erraddr ∧ decode? s.cmd = none))))

/-- R199: errors are precise for registers, and for memory but for a BUS error in SLIDE: a command that ends with an
error leaves ACC and every operand register, and, unless it is such an error, all of memory. -/
def Obligations.ErrorsArePrecise : Prop :=
  ∀ s t : State, s.noHostFault → s.busy = true → s.err = false → engineTurn s = .next t → t.err = true →
    (t.acc = s.acc ∧ t.src = s.src ∧ t.len = s.len ∧ t.tbl = s.tbl ∧ t.count = s.count ∧ t.wsize = s.wsize) ∧
    (t.mem = s.mem ∨ (t.errcode = .bus ∧ decode? s.cmd = some .slide))

/-! ## Registers -/

/-- R110: a write of v to CMD while BUSY = 0 issues v in one step; a write while BUSY = 1 is not an issue. The
clause on hostFaults is the model's choice, no part of R110: HOST_SIDEFX is recorded with the issue, exactly where the
command's range covers side-effect memory or the window at its host addresses (log entry 9, DESIGN CHOICE). -/
def Obligations.IssueLatchesTheWord : Prop :=
  ∀ (s : State) (v : Word), s.noHostFault →
    (s.busy = false → busStore s (s.cfg.coreBase + 0x010) .word v = .next
      { s with cmd := v, done := false, err := false, errcode := .none, busy := true,
               hostFaults := { s.hostFaults with hostSideFx := s.issueCovers v } }) ∧
    (s.busy = true → busStore s (s.cfg.coreBase + 0x010) .word v = .next { s with ovr := true })

/-- R67: issuing a command whose range covers the window or a side-effect location records HOST_SIDEFX; issuing one
whose range covers none does not. -/
def Obligations.SideEffectRangeIsRecorded : Prop :=
  ∀ (s : State) (v : Word) (i : Instr) (r : Region), s.noHostFault → s.busy = false → decode? v = some i →
    s.accessRange i = some r →
    ∃ t, busStore s (s.cfg.coreBase + 0x010) .word v = .next t ∧
      (t.hostFaults.hostSideFx = true ↔ ∃ x, r.holds x = true ∧
        ((s.cfg.coreBase ≤ x ∧ x < s.cfg.coreBase + 0x1000) ∨ inRegions s.cfg.sideFx x = true))

/-- R42 and the map of R22: a word read at each offset returns the register and changes nothing. -/
def Obligations.RegisterReadsHaveNoSideEffect : Prop :=
  ∀ s : State, s.noHostFault →
    ∀ p ∈ [(0x000, 0xAD320001#32), (0x004, capWord s.cfg), (0x008, s.ctrlWord), (0x00C, s.statusWord),
      (0x010, s.cmd), (0x014, s.acc), (0x018, s.src), (0x01C, s.len), (0x020, s.tbl), (0x024, s.count),
      (0x028, s.wsize), (0x02C, s.erraddr)],
      busLoad s (s.cfg.coreBase + p.1) .word = .next { s with readData := p.2 }

/-- R23: reserved offsets read 0 and ignore writes; the read-only registers ID, CAP and ERRADDR ignore writes. -/
def Obligations.ReservedAndReadOnlyIgnoreWrites : Prop :=
  ∀ (s : State) (v : Word), s.noHostFault →
    (∀ off, 0x030 ≤ off → off ≤ 0xFFC → off % 4 = 0 →
      busLoad s (s.cfg.coreBase + off) .word = .next { s with readData := 0#32 } ∧
      busStore s (s.cfg.coreBase + off) .word v = .next s) ∧
    (∀ off ∈ [0x000, 0x004, 0x02C], busStore s (s.cfg.coreBase + off) .word v = .next s)

/-- R43: while BUSY = 1 a write to CMD or an operand register changes nothing but OVR, and a write to CTRL or STATUS is
not dropped. -/
def Obligations.BusyDropsWrites : Prop :=
  ∀ (s : State) (v : Word), s.noHostFault → s.busy = true →
    (∀ off ∈ [0x010, 0x014, 0x018, 0x01C, 0x020, 0x024, 0x028],
      busStore s (s.cfg.coreBase + off) .word v = .next { s with ovr := true }) ∧
    busStore s (s.cfg.coreBase + 0x008) .word v = .next
      { s with ieDone := v.getLsbD 0, ieErr := v.getLsbD 1, ieOvr := v.getLsbD 2 } ∧
    busStore s (s.cfg.coreBase + 0x00C) .word v = .next
      { s with done := s.done && !v.getLsbD 1
               err := s.err && !v.getLsbD 2
               errcode := if v.getLsbD 2 then .none else s.errcode
               ovr := s.ovr && !v.getLsbD 3 }

/-- While BUSY = 0 a write to an operand register writes it and nothing else (R20, R27 to R32). -/
def Obligations.IdleOperandWritesLand : Prop :=
  ∀ (s : State) (v : Word), s.noHostFault → s.busy = false →
    busStore s (s.cfg.coreBase + 0x014) .word v = .next { s with acc := v } ∧
    busStore s (s.cfg.coreBase + 0x018) .word v = .next { s with src := v } ∧
    busStore s (s.cfg.coreBase + 0x01C) .word v = .next { s with len := v } ∧
    busStore s (s.cfg.coreBase + 0x020) .word v = .next { s with tbl := v } ∧
    busStore s (s.cfg.coreBase + 0x024) .word v = .next { s with count := v } ∧
    busStore s (s.cfg.coreBase + 0x028) .word v = .next { s with wsize := v }

/-- R41: a write of v to STATUS clears DONE, ERR with ERRCODE, and OVR where bits 1, 2, 3 of v are 1; BUSY and every
other bit of v are ignored; it is accepted while BUSY = 1. -/
def Obligations.StatusWriteClears : Prop :=
  ∀ (s : State) (v : Word), s.noHostFault →
    busStore s (s.cfg.coreBase + 0x00C) .word v = .next
      { s with done := s.done && !v.getLsbD 1
               err := s.err && !v.getLsbD 2
               errcode := if v.getLsbD 2 then .none else s.errcode
               ovr := s.ovr && !v.getLsbD 3 }

/-- R26: CTRL takes a write at any time and never sets OVR; bits 31:3 read back 0; it resets to 0; each enable asserts
IRQ while its flag is 1. -/
def Obligations.ControlRegister : Prop :=
  (∀ (s : State) (v : Word), s.noHostFault → ∃ t, busStore s (s.cfg.coreBase + 0x008) .word v = .next t ∧
    t = { s with ieDone := v.getLsbD 0, ieErr := v.getLsbD 1, ieOvr := v.getLsbD 2 } ∧
    t.ctrlWord.toNat = v.toNat % 8 ∧
    (v.getLsbD 0 = true → s.done = true → t.irq = true) ∧
    (v.getLsbD 1 = true → s.err = true → t.irq = true) ∧
    (v.getLsbD 2 = true → s.ovr = true → t.irq = true)) ∧
  State.reset.ctrlWord = 0#32

/-- R44: an access that touches the window and is not an aligned word access records HOST_ACCESS and has no effect. That
an access straddling the edge of the window is such an access is the model's inference (log entry 11, DEDUCED). -/
def Obligations.NonWordAccessIsRecorded : Prop :=
  ∀ (s : State) (a : Nat) (w : Width) (v : Word), s.noHostFault → InWindow s.cfg a w.bytes →
    ¬ (w = .word ∧ s.cfg.coreBase ≤ a ∧ (a - s.cfg.coreBase) % 4 = 0) →
    busLoad s a w = .next { s with hostFaults := { s.hostFaults with hostAccess := true } } ∧
    busStore s a w v = .next { s with hostFaults := { s.hostFaults with hostAccess := true } }

/-- R25: the fields of CAP in a legal configuration, its reference value, and that no step changes it. -/
def Obligations.CapabilityFields : Prop :=
  (∀ s : State, s.cfg.legal = true →
    2 ^ ((s.portRead 0x004).extractLsb' 0 4).toNat = s.cfg.vecBytes.bytes ∧
    (s.portRead 0x004).getLsbD 4 = true ∧ (s.portRead 0x004).extractLsb' 5 11 = 0#11 ∧
    ((s.portRead 0x004).extractLsb' 16 10).toNat = s.cfg.sbBeats ∧ 1 ≤ s.cfg.sbBeats ∧ s.cfg.sbBeats ≤ 963 ∧
    (s.portRead 0x004).extractLsb' 26 6 = 0#6) ∧
  capWord Config.reference = 0x02970014#32 ∧
  (∀ s t : State, step s = .next t → t.portRead 0x004 = s.portRead 0x004)

/-- R35 and R40: the layout of STATUS as read; in a state that meets the invariant ERRCODE is 0 while ERR = 0 and one of
the four codes while ERR = 1. -/
def Obligations.StatusLayout : Prop :=
  ∀ s : State,
    s.statusWord.toNat = s.busy.toNat + 2 * s.done.toNat + 4 * s.err.toNat + 8 * s.ovr.toNat
      + 16 * s.errcode.code.toNat ∧
    (s.Inv → s.err = false → s.errcode.code = 0#4) ∧
    (s.Inv → s.err = true → 1 ≤ s.errcode.code.toNat ∧ s.errcode.code.toNat ≤ 4)

/-- R196: IRQ is a function of STATUS and CTRL, 0 after reset. -/
def Obligations.IrqLevel : Prop :=
  (∀ s : State, s.irq =
    ((s.statusWord.getLsbD 1 && s.ctrlWord.getLsbD 0) || (s.statusWord.getLsbD 2 && s.ctrlWord.getLsbD 1)
      || (s.statusWord.getLsbD 3 && s.ctrlWord.getLsbD 2))) ∧
  State.reset.irq = false ∧ (∀ s : State, (resetTurn s).irq = false)

/-! ## Rules over every step of every agent -/

/-- R16: no step changes the configuration, so none changes ID, CAP or BusErr. -/
def Obligations.ConfigurationIsFixed : Prop :=
  ∀ s t : State, step s = .next t →
    t.cfg = s.cfg ∧ t.portRead 0x000 = s.portRead 0x000 ∧ t.portRead 0x004 = s.portRead 0x004

/-- R36, R119: BUSY is set only by an issue, and cleared only by a completion, which sets DONE, or by reset. -/
def Obligations.BusyChangesOnlyByIssueCompletionReset : Prop :=
  ∀ s t : State, step s = .next t → t.noHostFault →
    (s.busy = false → t.busy = true → ∃ v, s.writesNext .cmd v) ∧
    (s.busy = true → t.busy = false → (s.turn = .engine ∧ t.done = true) ∨ s.turn = .reset)

/-- R37: DONE is set by every completion and by nothing else, and cleared by an issue, a write to STATUS with bit 1 = 1,
or reset, and by nothing else. -/
def Obligations.DoneChangesOnlyAsStated : Prop :=
  ∀ s t : State, step s = .next t → t.noHostFault →
    (s.done = false → t.done = true → s.turn = .engine ∧ s.busy = true ∧ t.busy = false) ∧
    (s.turn = .engine → s.busy = true → t.busy = false → t.done = true) ∧
    (s.done = true → t.done = false →
      (∃ v, s.busy = false ∧ s.writesNext .cmd v) ∨ (∃ v, v.getLsbD 1 = true ∧ s.writesNext .status v) ∨
      s.turn = .reset) ∧
    (∀ v, s.busy = false → s.writesNext .cmd v → t.done = false) ∧
    (∀ v, v.getLsbD 1 = true → s.writesNext .status v → t.done = false) ∧
    (s.turn = .reset → t.done = false)

/-- R38: ERR is set by an error completion (one that gives an error code) and by nothing else, and cleared by an issue, a
write to STATUS with bit 2 = 1, or reset, and by nothing else; clearing it sets ERRCODE to 0. -/
def Obligations.ErrChangesOnlyAsStated : Prop :=
  ∀ s t : State, step s = .next t → t.noHostFault →
    (s.err = false → t.err = true → s.turn = .engine ∧ s.busy = true ∧ t.busy = false ∧ t.errcode ≠ .none) ∧
    (s.err = true → t.err = false → t.errcode = .none ∧
      ((∃ v, s.busy = false ∧ s.writesNext .cmd v) ∨ (∃ v, v.getLsbD 2 = true ∧ s.writesNext .status v) ∨
        s.turn = .reset)) ∧
    (s.turn = .engine → s.errcode = .none → t.errcode ≠ .none → t.err = true) ∧
    (∀ v, s.busy = false → s.writesNext .cmd v → t.err = false ∧ t.errcode = .none) ∧
    (∀ v, v.getLsbD 2 = true → s.writesNext .status v → t.err = false ∧ t.errcode = .none) ∧
    (s.turn = .reset → t.err = false ∧ t.errcode = .none)

/-- R39: OVR is set by a write that BUSY dropped and by nothing else, and cleared by a write to STATUS with bit 3 = 1 or
reset, and by nothing else; an issue does not clear it. -/
def Obligations.OvrChangesOnlyAsStated : Prop :=
  ∀ s t : State, step s = .next t → t.noHostFault →
    (s.ovr = false → t.ovr = true → s.busy = true ∧
      ∃ v, ∃ r ∈ [Reg.cmd, .acc, .src, .len, .tbl, .count, .wsize], s.writesNext r v) ∧
    (s.ovr = true → t.ovr = false → (∃ v, v.getLsbD 3 = true ∧ s.writesNext .status v) ∨ s.turn = .reset) ∧
    (∀ v, ∀ r ∈ [Reg.cmd, .acc, .src, .len, .tbl, .count, .wsize], s.busy = true → s.writesNext r v →
      t.ovr = true) ∧
    (∀ v, v.getLsbD 3 = true → s.writesNext .status v → t.ovr = false) ∧
    (∀ v, s.busy = false → s.writesNext .cmd v → t.ovr = s.ovr) ∧
    (s.turn = .reset → t.ovr = false)

/-- R20: no command writes SRC, LEN, TBL, COUNT or WSIZE, and only ADLER.UPD writes ACC, only at its completion. -/
def Obligations.CommandsKeepOperands : Prop :=
  ∀ s t : State, step s = .next t → t.noHostFault → s.turn = .engine →
    (t.src = s.src ∧ t.len = s.len ∧ t.tbl = s.tbl ∧ t.count = s.count ∧ t.wsize = s.wsize) ∧
    (t.acc ≠ s.acc → decode? s.cmd = some .adlerUpd ∧ s.busy = true ∧ t.busy = false ∧ t.done = true)

/-- R33: ERRADDR changes only at an error completion with ALIGN, RANGE or BUS, or by reset. -/
def Obligations.ErraddrChangesOnlyByErrors : Prop :=
  ∀ s t : State, step s = .next t → t.noHostFault → t.erraddr ≠ s.erraddr →
    s.turn = .reset ∨ (s.turn = .engine ∧ s.busy = true ∧ t.busy = false ∧ t.err = true ∧
      (t.errcode = .align ∨ t.errcode = .range ∨ t.errcode = .bus))

/-- R34: what CMD reads back changes only by an issue, to the issued word, or by reset. -/
def Obligations.CommandWordChangesOnlyByIssue : Prop :=
  ∀ s t : State, step s = .next t → t.noHostFault → t.cmd ≠ s.cmd →
    s.turn = .reset ∨ (s.busy = false ∧ t.busy = true ∧ s.writesNext .cmd t.cmd)

/-- R68, R83: a byte of memory changes only where a SLIDE writes its table, where a reset abandons one, or where a host
stores. That a reset of a busy SLIDE whose operands fail its checks changes no byte is the model's inference (log entry
17, DEDUCED). -/
def Obligations.MemoryChangesOnlyWhereWritten : Prop :=
  ∀ (s t : State) (a : Nat), Memory.wf s.mem = true → step s = .next t → t.noHostFault →
    readByte t.mem a ≠ readByte s.mem a →
    ((s.turn = .engine ∨ s.turn = .reset) ∧ s.busy = true ∧ decode? s.cmd = some .slide ∧
      ∃ r, s.accessRange .slide = some r ∧ r.holds a = true) ∨
    (∃ b w v, s.nextStore = some (b, w, v) ∧ (b ≤ a ∧ a < b + w.bytes) ∧
      t = { s.popTurn with mem := memWrite s.mem b w.bytes v.toNat, host := t.host })

/-- R49: the host-fault set never shrinks, reset included. -/
def Obligations.HostFaultsNeverShrink : Prop :=
  ∀ s t : State, step s = .next t →
    (s.hostFaults.hostAccess = true → t.hostFaults.hostAccess = true) ∧
    (s.hostFaults.hostRace = true → t.hostFaults.hostRace = true) ∧
    (s.hostFaults.hostSideFx = true → t.hostFaults.hostSideFx = true)

/-- R83, R112: while a command runs and no host fault is recorded, a host step changes neither the bytes it owns nor its
operands nor its word, so the command finds them as they stood at issue. -/
def Obligations.OwnedBytesHoldUntilCompletion : Prop :=
  ∀ (s t : State) (r : Region), Memory.wf s.mem = true → step s = .next t → t.noHostFault → HostMoves s →
    s.busy = true → s.ownedRange = some r →
    (∀ a, r.holds a = true → readByte t.mem a = readByte s.mem a) ∧ t.busy = true ∧ t.cmd = s.cmd ∧
    t.acc = s.acc ∧ t.src = s.src ∧ t.len = s.len ∧ t.tbl = s.tbl ∧ t.count = s.count ∧ t.wsize = s.wsize

/-! ## Memory and the host -/

/-- R62: an entry is little-endian: as read, as written back, and as a host sees it that reads a 32-bit word of a table
no SLIDE is updating: the entry at `a` in bits 15:0, the next one in bits 31:16. -/
def Obligations.EntriesAreLittleEndian : Prop :=
  (∀ (m : Memory) (a : Nat) (v : Half), Memory.wf m = true → a + 2 ≤ 2 ^ 32 →
    readEntry m a = (readByte m a).setWidth 16 ||| (readByte m (a + 1)).setWidth 16 <<< 8 ∧
    readByte (writeEntry m a v) a = v.extractLsb' 0 8 ∧ readByte (writeEntry m a v) (a + 1) = v.extractLsb' 8 8) ∧
  (∀ (s : State) (a : Nat), s.noHostFault → PlainMemory s.cfg a 4 → (s.busy = false ∨ decode? s.cmd ≠ some .slide) →
    ∃ t, busLoad s a .word = .next t ∧ t.readData.extractLsb' 0 16 = readEntry s.mem a ∧
      t.readData.extractLsb' 16 16 = readEntry s.mem (a + 2))

/-- R73: a host store of plain memory records HOST_RACE exactly where it touches a byte that the busy command owns; where
it touches none it stores its bytes, little-endian (R99), and changes nothing else. -/
def Obligations.HostStoreAndRace : Prop :=
  ∀ (s : State) (a : Nat) (w : Width) (v : Word), s.noHostFault → Memory.wf s.mem = true →
    PlainMemory s.cfg a w.bytes →
    ∃ t, busStore s a w v = .next t ∧ (t.hostFaults.hostRace = true ↔ Owned s a w.bytes) ∧
      (¬ Owned s a w.bytes → t = { s with mem := t.mem } ∧
        (∀ i < w.bytes, (readByte t.mem (a + i)).toNat = v.toNat / 256 ^ i % 256) ∧
        (∀ b, ¬ (a ≤ b ∧ b < a + w.bytes) → readByte t.mem b = readByte s.mem b))

/-- R74: a host load of plain memory returns, byte by byte, the byte's value, or, for a byte of the table of a busy SLIDE,
its value at issue or at completion: the one that the completion of this very SLIDE leaves, BUS error or not. A stuck
SLIDE has no completion; there the model takes the slid value for it (log entry 22). -/
def Obligations.HostLoadWhileBusy : Prop :=
  ∀ (s : State) (a : Nat) (w : Width), s.noHostFault → Memory.wf s.mem = true → PlainMemory s.cfg a w.bytes →
    ∃ t, busLoad s a w = .next t ∧ t = { s with readData := t.readData, draws := s.draws + 1 } ∧
      t.readData.toNat < 256 ^ w.bytes ∧
      ∀ i < w.bytes,
        BitVec.ofNat 8 (t.readData.toNat / 256 ^ i) = readByte s.mem (a + i) ∨
        (∃ r u, s.busy = true ∧ decode? s.cmd = some .slide ∧ s.accessRange .slide = some r ∧
          r.holds (a + i) = true ∧ engineTurn s = .next u ∧
          ((u.busy = false ∧ BitVec.ofNat 8 (t.readData.toNat / 256 ^ i) = readByte u.mem (a + i)) ∨
           (u = s ∧ BitVec.ofNat 8 (t.readData.toNat / 256 ^ i)
              = readByte (slideFrom s.mem s.wsize s.tbl.toNat s.count.toNat) (a + i))))

/-- R99: the register operations of a host program: wr, rd, one read of poll, wait_irq. -/
def Obligations.HostRegisterOperations : Prop :=
  ∀ (s : State) (r : Reg) (v mask val : Word) (rn : Nat), s.noHostFault → mapWf s.host.regs = true →
    execHostOp (.wr r v) s = .next (s.regWrite r v).advance ∧
    execHostOp (.wrReg r rn) s = .next (s.regWrite r (s.hostReg rn)).advance ∧
    (∃ t, execHostOp (.rd r rn) s = .next t ∧ t.hostReg rn = s.regRead r ∧
      (∀ k, k ≠ rn → t.hostReg k = s.hostReg k) ∧
      t = { s with readData := s.regRead r, host := { s.host with regs := t.host.regs, pos := s.host.pos + 1 } }) ∧
    execHostOp (.poll r mask val) s = .next { s with
      readData := s.regRead r
      host := if s.regRead r &&& mask = val then { s.host with pos := s.host.pos + 1 } else s.host } ∧
    execHostOp .waitIrq s = .next { s with
      host := if s.irq then { s.host with pos := s.host.pos + 1 } else s.host }

/-! ## Arithmetic -/

/-- R170: SLIDE1 as numbers; nothing wraps. -/
def Obligations.Slide1Value : Prop :=
  ∀ (m : Half) (w : Word), (slide1 m w).toNat = if w.toNat ≤ m.toNat then m.toNat - w.toNat else 0

/-- R130 in closed form: the sums modulo BASE that the scalar loop leaves. -/
def Obligations.AdlerClosedForm : Prop :=
  ∀ (seed : Word) (data : List Byte), data ≠ [] →
    (adler seed data).toNat =
      65536 * ((seed.toNat / 65536 + data.length * (seed.toNat % 65536)
        + ((List.range data.length).map fun k => (data.length - k) * (data.getD k 0).toNat).sum) % 65521)
      + (seed.toNat % 65536 + (data.map (·.toNat)).sum) % 65521

/-- R149: absorbing A then B is absorbing A then B in one go, for the function and for commands: two ADLER.UPD, the
second from the ACC the first left, give the ACC of one. -/
def Obligations.ChecksumConcatenates : Prop :=
  (∀ (seed : Word) (A B : List Byte), adler (adler seed A) B = adler seed (A ++ B)) ∧
  (∀ (s : State) (a b : Word), s.noHostFault → s.src.toNat + a.toNat + b.toNat ≤ 2 ^ 32 →
    a.toNat + b.toNat < 2 ^ 32 → Quiet s.cfg s.src.toNat (a.toNat + b.toNat) →
    ∃ t u v, exec .adlerUpd { s with len := a } = .next t ∧
      exec .adlerUpd { t with src := s.src + a, len := b } = .next u ∧
      exec .adlerUpd { s with len := a + b } = .next v ∧ u.acc = v.acc)

/-- R150: after a successful ADLER.UPD with LEN ≥ 1 both halves of ACC are below BASE; with LEN = 0 ACC is unchanged. -/
def Obligations.ChecksumHalvesReduced : Prop :=
  ∀ s : State, s.noHostFault →
    (s.len ≠ 0#32 → s.src.toNat + s.len.toNat ≤ 2 ^ 32 → Quiet s.cfg s.src.toNat s.len.toNat →
      ∃ t, exec .adlerUpd s = .next t ∧ t.acc.toNat % 65536 < 65521 ∧ t.acc.toNat / 65536 < 65521) ∧
    (s.len = 0#32 → ∃ t, exec .adlerUpd s = .next t ∧ t.acc = s.acc)

/-- R6 (and 93_implementation_defined.md I1): VEC_BYTES and SB_BEATS change no result of a command but the configuration,
from which CAP is read, and ERRADDR after a BUS error, which a width may report elsewhere in its interval. -/
def Obligations.BeatWidthIsInvisible : Prop :=
  ∀ (s : State) (i : Instr) (w : VecBytes) (k : Nat), s.noHostFault →
    ∃ t u, exec i s = .next t ∧
      exec i { s with cfg := { s.cfg with vecBytes := w, sbBeats := k } } = .next u ∧
      u = { t with cfg := { s.cfg with vecBytes := w, sbBeats := k }, erraddr := u.erraddr } ∧
      (u.erraddr = t.erraddr ∨ (t.errcode = .bus ∧ s.cfg.busErr ≠ []))

/-! ## The reference datapath -/

/-- R143: CHOP is the source's identity with its 32-bit wrap; as a number; its bound; it keeps the value modulo BASE,
and does not by itself bring x below BASE. -/
def Obligations.ChopIsACongruence : Prop :=
  (chop 0xFFFF#32 = 0xFFFF#32) ∧
  ∀ x : Word, chop x = (x &&& 0xffff#32) - (x >>> 16) + ((x >>> 16) <<< 4) ∧
    (chop x).toNat = x.toNat % 65536 + 15 * (x.toNat / 65536) ∧ (chop x).toNat ≤ 1048560 ∧
    (chop x).toNat % 65521 = x.toNat % 65521

/-- R144: MODRED is reduction modulo BASE of every 32-bit value. -/
def Obligations.ModredIsMod : Prop :=
  (∀ x : Word, (modred x).toNat = x.toNat % 65521) ∧ modred 0xFFFFFFFF#32 = 224#32

/-- R145: MODADD is addition modulo BASE of two values below BASE. -/
def Obligations.ModaddIsMod : Prop :=
  ∀ x y : Word, x.toNat < 65521 → y.toNat < 65521 →
    (modadd x y).toNat = (x.toNat + y.toNat) % 65521 ∧ (modadd x y).toNat < 65521

/-- R146: MRT adds its L lanes modulo BASE, for every W. -/
def Obligations.TreeAddsModulo : Prop :=
  ∀ (w : VecBytes) (t : List Word), t.length = w.lanes → (mrt w t).toNat = (t.map (·.toNat)).sum % 65521

/-- R135: the scalar step is one turn of the scalar loop, and keeps both sums below BASE. -/
def Obligations.ScalarStepIsTheLoop : Prop :=
  ∀ (p : Pair) (b : Byte), p.s1.toNat < 65521 → p.s2.toNat < 65521 →
    (p.scalarStep b).s1.toNat = (p.s1.toNat + b.toNat) % 65521 ∧
    (p.scalarStep b).s2.toNat = (p.s2.toNat + (p.s1.toNat + b.toNat) % 65521) % 65521

/-- R133: head, middle and tail make up the range; head and tail are shorter than a beat; a middle beat starts at a
multiple of W. -/
def Obligations.PartitionCoversTheRange : Prop :=
  ∀ (w : VecBytes) (src len : Nat),
    headLen w src len + beatCount w src len * w.bytes + tailLen w src len = len ∧
    headLen w src len < w.bytes ∧ tailLen w src len < w.bytes ∧
    (0 < beatCount w src len → (src + headLen w src len) % w.bytes = 0)

/-- R142, R8: KMAX(W) is the largest number of beats whose lane bound fits 32 bits. -/
def Obligations.KmaxIsTheLaneBound : Prop :=
  ∀ (w : VecBytes) (k : Nat), laneBound w k ≤ 2 ^ 32 - 1 ↔ k ≤ w.kmax

/-- R141: NMAX = 5552 is the largest solution of its condition. -/
def Obligations.NmaxIsTheLargest : Prop := ∀ n : Nat, nmaxCondition n = true ↔ n ≤ nmax

/-- R148: the pipeline computes ADLER, for every seed, source address, data of at least one byte, width and legal
SB_BEATS. -/
def Obligations.PipelineComputesAdler : Prop :=
  ∀ (w : VecBytes) (sb : Nat) (seed : Word) (src : Nat) (data : List Byte), data ≠ [] → 1 ≤ sb → sb ≤ w.kmax →
    frp w sb seed src data = adler seed data

/-- R175 and R176: for WSIZE below 2^16 the narrow path equals SLIDE1, max(m - w16, 0) (the Nat subtraction stops at 0)
and the source's blend (option b); the wide path gives 0 above, as SLIDE1 does. -/
def Obligations.LanePathsEqualSlide1 : Prop :=
  ∀ (m : Half) (w : Word),
    (w.toNat < 65536 → satsub16 m (w.extractLsb' 0 16) = slide1 m w ∧
      (satsub16 m (w.extractLsb' 0 16)).toNat = m.toNat - w.toNat ∧
      satsub16 m (w.extractLsb' 0 16) = if m < w.extractLsb' 0 16 then 0#16 else m - w.extractLsb' 0 16) ∧
    (65536 ≤ w.toNat → wideLane m w = 0#16 ∧ slide1 m w = 0#16)

/-- R177: the unit writes SLIDE1 to every entry of a table, for every width, address, length and WSIZE; and SLIDE over
memory leaves in the table what the unit gives for the entries read from it. -/
def Obligations.ClampUnitComputesSlide : Prop :=
  (∀ (w : VecBytes) (tbl : Nat) (wsize : Word) (entries : List Half),
    scu w tbl wsize entries = entries.map (slide1 · wsize)) ∧
  (∀ (w : VecBytes) (m : Memory) (tbl n : Nat) (wsize : Word), Memory.wf m = true → tbl + 2 * n ≤ 2 ^ 32 →
    readEntries (slideFrom m wsize tbl n) tbl n = scu w tbl wsize (readEntries m tbl n))
end

