-- ==== Sys2Proof/Laws/Regions.lean ====
section
/-! SUPPORT. Regions of addresses: `firstIn` is the lowest address of a range that a region holds, and what the bus
answers. -/
namespace Sys2Proof

theorem Region.holds_iff {r : Region} {a : Nat} : r.holds a = true ↔ r.base ≤ a ∧ a < r.base + r.size := by
  simp [Region.holds]

theorem Region.meets_iff {r : Region} {a n : Nat} :
    r.meets a n = true ↔ ∃ x, r.holds x = true ∧ a ≤ x ∧ x < a + n := by
  simp only [Region.meets, decide_eq_true_eq, Region.holds_iff]
  constructor
  · intro h; exact ⟨max r.base a, by omega⟩
  · rintro ⟨x, h⟩; omega

/-- The lowest address of a range that one region holds. -/
theorem Region.firstIn_some {r : Region} {a n e : Nat} (h : r.firstIn a n = some e) :
    (a ≤ e ∧ e < a + n) ∧ r.holds e = true ∧ ∀ x, a ≤ x → x < e → r.holds x = false := by
  unfold Region.firstIn at h
  split at h
  · next hm =>
    obtain rfl : max r.base a = e := by simpa using h
    simp only [Region.meets, decide_eq_true_eq] at hm
    refine ⟨by omega, Region.holds_iff.2 (by omega), fun x h1 h2 => ?_⟩
    rw [Bool.eq_false_iff, Ne, Region.holds_iff]; omega
  · cases h

theorem Region.firstIn_none {r : Region} {a n : Nat} (h : r.firstIn a n = none) {x : Nat} (h1 : a ≤ x)
    (h2 : x < a + n) : r.holds x = false := by
  unfold Region.firstIn at h
  split at h
  · cases h
  · next hm =>
    simp only [Region.meets, decide_eq_true_eq] at hm
    rw [Bool.eq_false_iff, Ne, Region.holds_iff]; omega

theorem inRegions_cons {r : Region} {rs : List Region} {x : Nat} :
    inRegions (r :: rs) x = (r.holds x || inRegions rs x) := rfl

/-- No region holds an address of the range. -/
theorem firstIn_none {rs : List Region} {a n : Nat} (h : firstIn rs a n = none) {x : Nat} (h1 : a ≤ x)
    (h2 : x < a + n) : inRegions rs x = false := by
  induction rs with
  | nil => rfl
  | cons r rs ih =>
    simp only [firstIn] at h
    rcases hr : r.firstIn a n with _ | y <;> rcases hs : firstIn rs a n with _ | z <;>
      simp only [hr, hs, minAddr, reduceCtorEq] at h
    rw [inRegions_cons, Region.firstIn_none hr h1 h2, ih hs, Bool.false_or]

/-- The lowest address of the range that some region holds. -/
theorem firstIn_some {rs : List Region} {a n e : Nat} (h : firstIn rs a n = some e) :
    (a ≤ e ∧ e < a + n) ∧ inRegions rs e = true ∧ ∀ x, a ≤ x → x < e → inRegions rs x = false := by
  induction rs generalizing e with
  | nil => cases h
  | cons r rs ih =>
    simp only [firstIn] at h
    rcases hr : r.firstIn a n with _ | y <;> rcases hs : firstIn rs a n with _ | z <;>
      simp only [hr, hs, minAddr, reduceCtorEq, Option.some.injEq] at h
    · subst h
      obtain ⟨h1, h2, h3⟩ := ih hs
      refine ⟨h1, by rw [inRegions_cons, h2, Bool.or_true], fun x hx hx' => ?_⟩
      rw [inRegions_cons, h3 x hx hx', Region.firstIn_none hr hx (by omega), Bool.false_or]
    · subst h
      obtain ⟨h1, h2, h3⟩ := Region.firstIn_some hr
      refine ⟨h1, by rw [inRegions_cons, h2, Bool.true_or], fun x hx hx' => ?_⟩
      rw [inRegions_cons, h3 x hx hx', firstIn_none hs hx (by omega), Bool.false_or]
    · obtain ⟨h1, h2, h3⟩ := Region.firstIn_some hr
      obtain ⟨k1, k2, k3⟩ := ih hs
      subst h
      refine ⟨by omega, ?_, fun x hx hx' => ?_⟩
      · rw [inRegions_cons]
        rcases Nat.le_total y z with hyz | hyz
        · rw [Nat.min_eq_left hyz, h2, Bool.true_or]
        · rw [Nat.min_eq_right hyz, k2, Bool.or_true]
      · rw [inRegions_cons, h3 x hx (by omega), k3 x hx (by omega), Bool.false_or]

/-- `firstIn` finds the lowest address of the range with the predicate. -/
theorem firstIn_eq_some {rs : List Region} {a n e : Nat} (h1 : a ≤ e) (h2 : e < a + n)
    (h3 : inRegions rs e = true) (h4 : ∀ x, a ≤ x → x < e → inRegions rs x = false) : firstIn rs a n = some e := by
  rcases h : firstIn rs a n with _ | y
  · rw [firstIn_none h h1 h2] at h3; cases h3
  · obtain ⟨k1, k2, k3⟩ := firstIn_some h
    rcases Nat.lt_trichotomy e y with hlt | heq | hgt
    · rw [k3 e h1 hlt] at h3; cases h3
    · rw [heq]
    · rw [h4 y k1.1 hgt] at k2; cases k2

theorem firstIn_eq_none {rs : List Region} {a n : Nat} (h : ∀ x, a ≤ x → x < a + n → inRegions rs x = false) :
    firstIn rs a n = none := by
  rcases h' : firstIn rs a n with _ | y
  · rfl
  · obtain ⟨k1, k2, -⟩ := firstIn_some h'
    rw [h y k1.1 k1.2] at k2; cases k2

namespace Machine

/-- Every access is answered with data: no byte of the range has BusErr and none is unanswered. -/
theorem busReply_ok {c : Config} {a n g : Nat} (h1 : ∀ x, a ≤ x → x < a + n → inRegions c.busErr x = false)
    (h2 : ∀ x, a ≤ x → x < a + n → inRegions c.unanswered x = false) : busReply c a n g = .ok := by
  simp only [busReply, firstIn_eq_none h1, firstIn_eq_none h2]

/-- What an error reply says. -/
theorem busReply_error {c : Config} {a n g e : Nat} (h : busReply c a n g = .error e) :
    (a ≤ e ∧ e < a + n) ∧ inRegions c.busErr e = true ∧ ∀ x, a ≤ x → x < e → inRegions c.busErr x = false := by
  unfold busReply at h
  rcases h1 : firstIn c.busErr a n with _ | y <;> rcases h2 : firstIn c.unanswered a n with _ | z <;>
    simp only [h1, h2, reduceCtorEq, BusReply.error.injEq] at h
  · subst h; exact firstIn_some h1
  · split at h
    · obtain rfl := BusReply.error.inj h; exact firstIn_some h1
    · cases h

/-- What a stuck reply says: some byte of the range is never answered. -/
theorem busReply_hang {c : Config} {a n g : Nat} (h : busReply c a n g = .hang) :
    ∃ u, (a ≤ u ∧ u < a + n) ∧ inRegions c.unanswered u = true := by
  rcases hu : firstIn c.unanswered a n with _ | u
  · unfold busReply at h
    rw [hu] at h
    rcases h1 : firstIn c.busErr a n with _ | y <;> rw [h1] at h <;> cases h
  · exact ⟨u, (firstIn_some hu).1, (firstIn_some hu).2.1⟩

/-- An error reply: the lowest byte with BusErr, no unanswered byte in an earlier access. -/
theorem busReply_eq_error {c : Config} {a n g e : Nat} (h1 : a ≤ e) (h2 : e < a + n)
    (h3 : inRegions c.busErr e = true) (h4 : ∀ x, a ≤ x → x < e → inRegions c.busErr x = false)
    (h5 : ∀ x, a ≤ x → x < a + n → inRegions c.unanswered x = true → e / g ≤ x / g) :
    busReply c a n g = .error e := by
  unfold busReply
  rw [firstIn_eq_some h1 h2 h3 h4]
  rcases hu : firstIn c.unanswered a n with _ | u
  · rfl
  · obtain ⟨k1, k2, -⟩ := firstIn_some hu
    exact if_pos (h5 u k1.1 k1.2 k2)

/-- A stuck reply: some unanswered byte, every byte with BusErr in a later access. -/
theorem busReply_eq_hang {c : Config} {a n g u : Nat} (h1 : a ≤ u) (h2 : u < a + n)
    (h3 : inRegions c.unanswered u = true)
    (h4 : ∀ x, a ≤ x → x < a + n → inRegions c.busErr x = true → u / g < x / g) : busReply c a n g = .hang := by
  unfold busReply
  rcases hu : firstIn c.unanswered a n with _ | y
  · rw [firstIn_none hu h1 h2] at h3; cases h3
  · rcases he : firstIn c.busErr a n with _ | e
    · rfl
    · obtain ⟨k1, k2, -⟩ := firstIn_some he
      have hy : y ≤ u := by
        rcases Nat.lt_or_ge u y with hlt | hge
        · rw [(firstIn_some hu).2.2 u h1 hlt] at h3; cases h3
        · exact hge
      have hle := Nat.div_le_div_right (c := g) hy
      have hlt := h4 e k1.1 k1.2 k2
      exact if_neg (by omega)

/-- The answer does not depend on VEC_BYTES or SB_BEATS (00_scope.md R6). -/
theorem busReply_vecBytes (c : Config) (w : VecBytes) (k a n g : Nat) :
    busReply { c with vecBytes := w, sbBeats := k } a n g = busReply c a n g := rfl

end Machine
end Sys2Proof
end

