-- ==== Sys2Proof/Laws/Memory.lean ====
section
/-! SUPPORT. Sparse maps and memory: read after write, and that every operation keeps the canonical form. -/
namespace Sys2Proof.Machine

variable {w : Nat}

/-! ## Sparse maps -/

@[simp] theorem readAt_nil (a : Nat) : readAt ([] : List (Nat × BitVec w)) a = unlisted := rfl

theorem readAt_below {m : List (Nat × BitVec w)} {a : Nat} (h : ∀ c ∈ m, a < c.1) : readAt m a = unlisted := by
  induction m with
  | nil => rfl
  | cons c rest ih =>
    obtain ⟨k, v⟩ := c
    have hk : a < k := h (k, v) (by simp)
    simp only [readAt, if_neg (Nat.ne_of_gt hk)]
    exact ih fun c hc => h c (by simp [hc])

theorem mapWf_cons {k : Nat} {v : BitVec w} {rest : List (Nat × BitVec w)} :
    mapWf ((k, v) :: rest) = true ↔ v ≠ unlisted ∧ (∀ c ∈ rest, k < c.1) ∧ mapWf rest = true := by
  simp [mapWf, and_assoc]

/-- Reading what `consAt` built: the new pair's value at its key, the rest elsewhere; the rest must not list the key. -/
theorem readAt_consAt {m : List (Nat × BitVec w)} {a b : Nat} {v : BitVec w} (h : ∀ c ∈ m, a < c.1) :
    readAt (consAt a v m) b = if b = a then v else readAt m b := by
  unfold consAt
  by_cases hv : v = unlisted
  · rw [if_pos hv]
    split
    · next hb => rw [hb, readAt_below h, hv]
    · rfl
  · rw [if_neg hv]
    simp only [readAt, eq_comm]

theorem mem_consAt {m : List (Nat × BitVec w)} {a : Nat} {v : BitVec w} {c : Nat × BitVec w}
    (h : c ∈ consAt a v m) : c.1 = a ∨ c ∈ m := by
  unfold consAt at h
  split at h
  · exact .inr h
  · rcases List.mem_cons.1 h with h | h
    · exact .inl (by rw [h])
    · exact .inr h

theorem mem_writeAt {m : List (Nat × BitVec w)} {a : Nat} {v : BitVec w} {c : Nat × BitVec w}
    (h : c ∈ writeAt m a v) : c.1 = a ∨ c ∈ m := by
  induction m with
  | nil => exact mem_consAt h
  | cons d rest ih =>
    obtain ⟨k, x⟩ := d
    simp only [writeAt] at h
    split at h
    · exact mem_consAt h
    · split at h
      · exact (mem_consAt h).imp_right (List.mem_cons_of_mem _)
      · rcases List.mem_cons.1 h with h | h
        · exact .inr (by simp [h])
        · exact (ih h).imp_right (List.mem_cons_of_mem _)

theorem consAt_wf {m : List (Nat × BitVec w)} {a : Nat} {v : BitVec w} (hm : mapWf m = true)
    (h : ∀ c ∈ m, a < c.1) : mapWf (consAt a v m) = true := by
  unfold consAt
  split
  · exact hm
  · next hv => exact mapWf_cons.2 ⟨hv, h, hm⟩

/-- A write keeps the canonical form. -/
theorem writeAt_wf {m : List (Nat × BitVec w)} (hm : mapWf m = true) (a : Nat) (v : BitVec w) :
    mapWf (writeAt m a v) = true := by
  induction m with
  | nil => exact consAt_wf rfl (by simp)
  | cons d rest ih =>
    obtain ⟨k, x⟩ := d
    obtain ⟨hx, hk, hr⟩ := mapWf_cons.1 hm
    simp only [writeAt]
    split
    · next hak =>
      refine consAt_wf hm fun c hc => ?_
      rcases List.mem_cons.1 hc with hc | hc
      · rw [hc]; exact hak
      · exact Nat.lt_trans hak (hk c hc)
    · split
      · next hak => exact consAt_wf hr (hak ▸ hk)
      · next h1 h2 =>
        refine mapWf_cons.2 ⟨hx, fun c hc => ?_, ih hr⟩
        rcases mem_writeAt hc with hc | hc
        · omega
        · exact hk c hc

/-- Read after write: the value written at its key, what was there elsewhere. -/
theorem readAt_writeAt {m : List (Nat × BitVec w)} (hm : mapWf m = true) (a b : Nat) (v : BitVec w) :
    readAt (writeAt m a v) b = if b = a then v else readAt m b := by
  induction m with
  | nil => exact readAt_consAt (by simp)
  | cons d rest ih =>
    obtain ⟨k, x⟩ := d
    obtain ⟨hx, hk, hr⟩ := mapWf_cons.1 hm
    simp only [writeAt]
    split
    · next hak =>
      refine readAt_consAt fun c hc => ?_
      rcases List.mem_cons.1 hc with hc | hc
      · rw [hc]; exact hak
      · exact Nat.lt_trans hak (hk c hc)
    · split
      · next hak =>
        subst hak
        rw [readAt_consAt hk]
        split
        · rfl
        · next hb => simp only [readAt, if_neg (Ne.symm hb)]
      · next h1 h2 =>
        simp only [readAt, ih hr]
        split
        · next hkb => rw [if_neg (by omega)]
        · rfl

/-! ## Memory -/

theorem Memory.wf_iff {m : Memory} : Memory.wf m = true ↔ mapWf m = true ∧ ∀ c ∈ m, c.1 < addrSpace := by
  simp [Memory.wf]

theorem writeByte_wf {m : Memory} (hm : Memory.wf m = true) {a : Nat} (ha : a < addrSpace) (v : Byte) :
    Memory.wf (writeByte m a v) = true := by
  obtain ⟨h1, h2⟩ := Memory.wf_iff.1 hm
  refine Memory.wf_iff.2 ⟨writeAt_wf h1 a v, fun c hc => ?_⟩
  rcases mem_writeAt hc with hc | hc
  · rw [hc]; exact ha
  · exact h2 c hc

theorem readByte_writeByte {m : Memory} (hm : Memory.wf m = true) (a b : Nat) (v : Byte) :
    readByte (writeByte m a v) b = if b = a then v else readByte m b :=
  readAt_writeAt (Memory.wf_iff.1 hm).1 a b v

theorem memWrite_wf {n : Nat} : ∀ {m : Memory} {a v : Nat}, Memory.wf m = true → a + n ≤ addrSpace →
    Memory.wf (memWrite m a n v) = true := by
  induction n with
  | zero => intro m a v hm _; exact hm
  | succ n ih => intro m a v hm ha; exact ih (writeByte_wf hm (by omega) _) (by omega)

/-- Read after a group write: byte `b - a` of the value inside the group, what was there outside. -/
theorem readByte_memWrite {n : Nat} : ∀ {m : Memory} {a v : Nat}, Memory.wf m = true → a + n ≤ addrSpace →
    ∀ b, readByte (memWrite m a n v) b
      = if a ≤ b ∧ b < a + n then BitVec.ofNat 8 (v / 256 ^ (b - a)) else readByte m b := by
  induction n with
  | zero => intro m a v _ _ b; rw [if_neg (by omega)]; rfl
  | succ n ih =>
    intro m a v hm ha b
    simp only [memWrite]
    rw [ih (writeByte_wf hm (by omega) _) (by omega), readByte_writeByte hm]
    by_cases h1 : a + 1 ≤ b ∧ b < a + 1 + n
    · rw [if_pos h1, if_pos (by omega), Nat.div_div_eq_div_mul, ← Nat.pow_succ']
      congr 3; omega
    · rw [if_neg h1]
      by_cases h2 : b = a
      · subst h2; rw [if_pos rfl, if_pos (by omega)]; simp
      · rw [if_neg h2, if_neg (by omega)]

/-- A group read depends only on the bytes of the group. -/
theorem memRead_congr {m m' : Memory} {n : Nat} : ∀ {a : Nat}, (∀ b, a ≤ b → b < a + n → readByte m b = readByte m' b) →
    memRead m a n = memRead m' a n := by
  induction n with
  | zero => intro a _; rfl
  | succ n ih =>
    intro a h
    simp only [memRead]
    rw [h a (by omega) (by omega), ih fun b h1 h2 => h b (by omega) (by omega)]

theorem readEntry_congr {m m' : Memory} {a : Nat} (h0 : readByte m a = readByte m' a)
    (h1 : readByte m (a + 1) = readByte m' (a + 1)) : readEntry m a = readEntry m' a := by
  unfold readEntry
  rw [memRead_congr (m' := m')]
  intro b hb hb'
  obtain rfl | rfl : b = a ∨ b = a + 1 := by omega
  · exact h0
  · exact h1

theorem writeEntry_wf {m : Memory} (hm : Memory.wf m = true) {a : Nat} (ha : a + 2 ≤ addrSpace) (v : Half) :
    Memory.wf (writeEntry m a v) = true := memWrite_wf hm ha

/-- The byte of an entry at offset `d` (0 low, 1 high). -/
def entryByte (v : Half) (d : Nat) : Byte := if d = 0 then v.extractLsb' 0 8 else v.extractLsb' 8 8

/-- Read after an entry write: its low byte, its high byte, what was there elsewhere. -/
theorem readByte_writeEntry {m : Memory} (hm : Memory.wf m = true) {a : Nat} (ha : a + 2 ≤ addrSpace) (v : Half)
    (b : Nat) : readByte (writeEntry m a v) b
      = if a ≤ b ∧ b < a + 2 then entryByte v (b - a) else readByte m b := by
  unfold writeEntry
  rw [readByte_memWrite hm ha]
  split
  · next h =>
    obtain h | h : b - a = 0 ∨ b - a = 1 := by omega
    · rw [h]; simp only [entryByte, if_true]
      apply BitVec.eq_of_toNat_eq; simp
    · rw [h]; simp only [entryByte]
      apply BitVec.eq_of_toNat_eq; simp [Nat.shiftRight_eq_div_pow]
  · rfl

/-- An entry read back. -/
theorem readEntry_writeEntry {m : Memory} (hm : Memory.wf m = true) {a : Nat} (ha : a + 2 ≤ addrSpace) (v : Half) :
    readEntry (writeEntry m a v) a = v := by
  unfold readEntry
  simp only [memRead, readByte_writeEntry hm ha]
  rw [if_pos (by omega), if_pos (by omega)]
  have h1 : a + 1 - a = 1 := by omega
  rw [Nat.sub_self, h1]
  apply BitVec.eq_of_toNat_eq
  simp [entryByte, Nat.shiftRight_eq_div_pow]
  omega

/-- The bytes of a range, one by one. -/
theorem readBytes_eq_map {m : Memory} {n : Nat} : ∀ {a : Nat},
    readBytes m a n = (List.range n).map fun i => readByte m (a + i) := by
  induction n with
  | zero => intro a; rfl
  | succ n ih =>
    intro a
    simp only [readBytes, ih, List.range_succ_eq_map, List.map_cons, List.map_map, Nat.add_zero]
    congr 1
    apply List.map_congr_left
    intro i _
    simp only [Function.comp]
    congr 1
    omega

@[simp] theorem readBytes_length {m : Memory} {a n : Nat} : (readBytes m a n).length = n := by
  simp [readBytes_eq_map]

theorem readBytes_append {m : Memory} {n k : Nat} : ∀ {a : Nat},
    readBytes m a (n + k) = readBytes m a n ++ readBytes m (a + n) k := by
  induction n with
  | zero => intro a; simp [readBytes]
  | succ n ih =>
    intro a
    rw [Nat.succ_add]
    simp only [readBytes, ih, List.cons_append]
    congr 3; omega

end Sys2Proof.Machine
end

