-- ==== Sys2Proof/Laws/SlideMemory.lean ====
section
/-! SUPPORT. What a slide does to memory, byte by byte: a successful one, and one that is abandoned or fails. -/
namespace Sys2Proof.Machine

theorem slideFrom_wf {w : Word} {n : Nat} : ∀ {m : Memory} {a : Nat}, Memory.wf m = true → a + 2 * n ≤ addrSpace →
    Memory.wf (slideFrom m w a n) = true := by
  induction n with
  | zero => intro m a hm _; exact hm
  | succ n ih => intro m a hm ha; exact ih (writeEntry_wf hm (by omega) _) (by omega)

/-- Bytes outside the slid entries are unchanged. -/
theorem readByte_slideFrom_outside {w : Word} {n : Nat} : ∀ {m : Memory} {a : Nat}, Memory.wf m = true →
    a + 2 * n ≤ addrSpace → ∀ b, ¬ (a ≤ b ∧ b < a + 2 * n) → readByte (slideFrom m w a n) b = readByte m b := by
  induction n with
  | zero => intro m a _ _ b _; rfl
  | succ n ih =>
    intro m a hm ha b hb
    rw [slideFrom, ih (writeEntry_wf hm (by omega) _) (by omega) b (by omega), readByte_writeEntry hm (by omega),
      if_neg (by omega)]

/-- Each entry of the range is slid once. -/
theorem readEntry_slideFrom {w : Word} {n : Nat} : ∀ {m : Memory} {a : Nat}, Memory.wf m = true →
    a + 2 * n ≤ addrSpace → ∀ i < n,
    readEntry (slideFrom m w a n) (a + 2 * i) = slide1 (readEntry m (a + 2 * i)) w := by
  induction n with
  | zero => intro m a _ _ i hi; omega
  | succ n ih =>
    intro m a hm ha i hi
    have hm' := writeEntry_wf hm (a := a) (by omega) (slide1 (readEntry m a) w)
    rcases Nat.eq_zero_or_pos i with h0 | h0
    · subst h0
      rw [slideFrom, readEntry_congr (readByte_slideFrom_outside hm' (by omega) _ (by omega))
        (readByte_slideFrom_outside hm' (by omega) _ (by omega))]
      exact readEntry_writeEntry hm (by omega) _
    · obtain ⟨j, rfl⟩ : ∃ j, i = j + 1 := ⟨i - 1, by omega⟩
      have e : a + 2 * (j + 1) = a + 2 + 2 * j := by omega
      rw [slideFrom, e, ih hm' (by omega) j (by omega)]
      congr 1
      refine readEntry_congr ?_ ?_ <;>
        rw [readByte_writeEntry hm (by omega), if_neg (by omega)]

/-- The low and high bytes of an entry are the two bytes of memory. -/
theorem entryByte_readEntry {m : Memory} {a d : Nat} (hd : d < 2) :
    entryByte (readEntry m a) d = readByte m (a + d) := by
  obtain rfl | rfl : d = 0 ∨ d = 1 := by omega
  · apply BitVec.eq_of_toNat_eq
    have := (readByte m a).isLt; have := (readByte m (a + 1)).isLt
    simp [entryByte, readEntry, memRead]; omega
  · apply BitVec.eq_of_toNat_eq
    have := (readByte m a).isLt; have := (readByte m (a + 1)).isLt
    simp [entryByte, readEntry, memRead, Nat.shiftRight_eq_div_pow]; omega

/-- `slidByte` is what a successful slide gives a byte of the table. -/
theorem slidByte_eq {m : Memory} {w : Word} {tbl n a : Nat} (hm : Memory.wf m = true) (ht : tbl + 2 * n ≤ addrSpace)
    (h1 : tbl ≤ a) (h2 : a < tbl + 2 * n) : slidByte m w tbl a = readByte (slideFrom m w tbl n) a := by
  have hp : a - (a - tbl) % 2 = tbl + 2 * ((a - tbl) / 2) := by omega
  have he := readEntry_slideFrom (w := w) hm ht ((a - tbl) / 2) (by omega)
  have hb := entryByte_readEntry (m := slideFrom m w tbl n) (a := tbl + 2 * ((a - tbl) / 2)) (d := (a - tbl) % 2)
    (by omega)
  rw [he] at hb
  have ha : tbl + 2 * ((a - tbl) / 2) + (a - tbl) % 2 = a := by omega
  rw [ha] at hb
  rw [← hb, slidByte, hp]
  rfl

theorem mixSlide_wf {old : Memory} {w : Word} {tbl k n : Nat} : ∀ {m : Memory} {a : Nat}, Memory.wf m = true →
    a + n ≤ addrSpace → Memory.wf (mixSlide old w tbl k m a n) = true := by
  induction n with
  | zero => intro m a hm _; exact hm
  | succ n ih => intro m a hm ha; exact ih (writeByte_wf hm (by omega) _) (by omega)

/-- After an abandoned or failed slide: in the table each byte is slid or old, as the draw says; others are unchanged. -/
theorem readByte_mixSlide {old : Memory} {w : Word} {tbl k n : Nat} : ∀ {m : Memory} {a : Nat}, Memory.wf m = true →
    a + n ≤ addrSpace → ∀ b, readByte (mixSlide old w tbl k m a n) b
      = if a ≤ b ∧ b < a + n then mixByte old w tbl k b
        else readByte m b := by
  induction n with
  | zero => intro m a _ _ b; rw [if_neg (by omega)]; rfl
  | succ n ih =>
    intro m a hm ha b
    rw [mixSlide, ih (writeByte_wf hm (by omega) _) (by omega), readByte_writeByte hm]
    by_cases h1 : a + 1 ≤ b ∧ b < a + 1 + n
    · simp only [if_pos h1, if_pos (show a ≤ b ∧ b < a + (n + 1) by omega)]
    · rw [if_neg h1]
      by_cases h2 : b = a
      · subst h2; simp only [if_pos (show b ≤ b ∧ b < b + (n + 1) by omega), if_true]
      · rw [if_neg h2, if_neg (by omega)]

end Sys2Proof.Machine
end

