-- ==== Sys2Proof/Laws/State.lean ====
section
/-! SUPPORT. The fields of State after each named update: one lemma per field per update, true by rfl. -/
namespace Sys2Proof.Machine

@[simp] theorem State.nextEnding_cfg (s : State) : s.nextEnding.cfg = s.cfg := rfl
@[simp] theorem State.nextEnding_ieDone (s : State) : s.nextEnding.ieDone = s.ieDone := rfl
@[simp] theorem State.nextEnding_ieErr (s : State) : s.nextEnding.ieErr = s.ieErr := rfl
@[simp] theorem State.nextEnding_ieOvr (s : State) : s.nextEnding.ieOvr = s.ieOvr := rfl
@[simp] theorem State.nextEnding_busy (s : State) : s.nextEnding.busy = s.busy := rfl
@[simp] theorem State.nextEnding_done (s : State) : s.nextEnding.done = s.done := rfl
@[simp] theorem State.nextEnding_err (s : State) : s.nextEnding.err = s.err := rfl
@[simp] theorem State.nextEnding_ovr (s : State) : s.nextEnding.ovr = s.ovr := rfl
@[simp] theorem State.nextEnding_errcode (s : State) : s.nextEnding.errcode = s.errcode := rfl
@[simp] theorem State.nextEnding_cmd (s : State) : s.nextEnding.cmd = s.cmd := rfl
@[simp] theorem State.nextEnding_acc (s : State) : s.nextEnding.acc = s.acc := rfl
@[simp] theorem State.nextEnding_src (s : State) : s.nextEnding.src = s.src := rfl
@[simp] theorem State.nextEnding_len (s : State) : s.nextEnding.len = s.len := rfl
@[simp] theorem State.nextEnding_tbl (s : State) : s.nextEnding.tbl = s.tbl := rfl
@[simp] theorem State.nextEnding_count (s : State) : s.nextEnding.count = s.count := rfl
@[simp] theorem State.nextEnding_wsize (s : State) : s.nextEnding.wsize = s.wsize := rfl
@[simp] theorem State.nextEnding_erraddr (s : State) : s.nextEnding.erraddr = s.erraddr := rfl
@[simp] theorem State.nextEnding_mem (s : State) : s.nextEnding.mem = s.mem := rfl
@[simp] theorem State.nextEnding_hostFaults (s : State) : s.nextEnding.hostFaults = s.hostFaults := rfl
@[simp] theorem State.nextEnding_draws (s : State) : s.nextEnding.draws = s.draws := rfl
@[simp] theorem State.nextEnding_endDraws (s : State) : s.nextEnding.endDraws = s.endDraws + 1 := rfl
@[simp] theorem State.nextEnding_readData (s : State) : s.nextEnding.readData = s.readData := rfl
@[simp] theorem State.nextEnding_host (s : State) : s.nextEnding.host = s.host := rfl
@[simp] theorem State.nextEnding_schedule (s : State) : s.nextEnding.schedule = s.schedule := rfl

@[simp] theorem State.recordAccess_cfg (s : State) : s.recordAccess.cfg = s.cfg := rfl
@[simp] theorem State.recordAccess_ieDone (s : State) : s.recordAccess.ieDone = s.ieDone := rfl
@[simp] theorem State.recordAccess_ieErr (s : State) : s.recordAccess.ieErr = s.ieErr := rfl
@[simp] theorem State.recordAccess_ieOvr (s : State) : s.recordAccess.ieOvr = s.ieOvr := rfl
@[simp] theorem State.recordAccess_busy (s : State) : s.recordAccess.busy = s.busy := rfl
@[simp] theorem State.recordAccess_done (s : State) : s.recordAccess.done = s.done := rfl
@[simp] theorem State.recordAccess_err (s : State) : s.recordAccess.err = s.err := rfl
@[simp] theorem State.recordAccess_ovr (s : State) : s.recordAccess.ovr = s.ovr := rfl
@[simp] theorem State.recordAccess_errcode (s : State) : s.recordAccess.errcode = s.errcode := rfl
@[simp] theorem State.recordAccess_cmd (s : State) : s.recordAccess.cmd = s.cmd := rfl
@[simp] theorem State.recordAccess_acc (s : State) : s.recordAccess.acc = s.acc := rfl
@[simp] theorem State.recordAccess_src (s : State) : s.recordAccess.src = s.src := rfl
@[simp] theorem State.recordAccess_len (s : State) : s.recordAccess.len = s.len := rfl
@[simp] theorem State.recordAccess_tbl (s : State) : s.recordAccess.tbl = s.tbl := rfl
@[simp] theorem State.recordAccess_count (s : State) : s.recordAccess.count = s.count := rfl
@[simp] theorem State.recordAccess_wsize (s : State) : s.recordAccess.wsize = s.wsize := rfl
@[simp] theorem State.recordAccess_erraddr (s : State) : s.recordAccess.erraddr = s.erraddr := rfl
@[simp] theorem State.recordAccess_mem (s : State) : s.recordAccess.mem = s.mem := rfl
@[simp] theorem State.recordAccess_hostFaults (s : State) : s.recordAccess.hostFaults = { s.hostFaults with hostAccess := true } := rfl
@[simp] theorem State.recordAccess_draws (s : State) : s.recordAccess.draws = s.draws := rfl
@[simp] theorem State.recordAccess_endDraws (s : State) : s.recordAccess.endDraws = s.endDraws := rfl
@[simp] theorem State.recordAccess_readData (s : State) : s.recordAccess.readData = s.readData := rfl
@[simp] theorem State.recordAccess_host (s : State) : s.recordAccess.host = s.host := rfl
@[simp] theorem State.recordAccess_schedule (s : State) : s.recordAccess.schedule = s.schedule := rfl

@[simp] theorem State.recordRace_cfg (s : State) : s.recordRace.cfg = s.cfg := rfl
@[simp] theorem State.recordRace_ieDone (s : State) : s.recordRace.ieDone = s.ieDone := rfl
@[simp] theorem State.recordRace_ieErr (s : State) : s.recordRace.ieErr = s.ieErr := rfl
@[simp] theorem State.recordRace_ieOvr (s : State) : s.recordRace.ieOvr = s.ieOvr := rfl
@[simp] theorem State.recordRace_busy (s : State) : s.recordRace.busy = s.busy := rfl
@[simp] theorem State.recordRace_done (s : State) : s.recordRace.done = s.done := rfl
@[simp] theorem State.recordRace_err (s : State) : s.recordRace.err = s.err := rfl
@[simp] theorem State.recordRace_ovr (s : State) : s.recordRace.ovr = s.ovr := rfl
@[simp] theorem State.recordRace_errcode (s : State) : s.recordRace.errcode = s.errcode := rfl
@[simp] theorem State.recordRace_cmd (s : State) : s.recordRace.cmd = s.cmd := rfl
@[simp] theorem State.recordRace_acc (s : State) : s.recordRace.acc = s.acc := rfl
@[simp] theorem State.recordRace_src (s : State) : s.recordRace.src = s.src := rfl
@[simp] theorem State.recordRace_len (s : State) : s.recordRace.len = s.len := rfl
@[simp] theorem State.recordRace_tbl (s : State) : s.recordRace.tbl = s.tbl := rfl
@[simp] theorem State.recordRace_count (s : State) : s.recordRace.count = s.count := rfl
@[simp] theorem State.recordRace_wsize (s : State) : s.recordRace.wsize = s.wsize := rfl
@[simp] theorem State.recordRace_erraddr (s : State) : s.recordRace.erraddr = s.erraddr := rfl
@[simp] theorem State.recordRace_mem (s : State) : s.recordRace.mem = s.mem := rfl
@[simp] theorem State.recordRace_hostFaults (s : State) : s.recordRace.hostFaults = { s.hostFaults with hostRace := true } := rfl
@[simp] theorem State.recordRace_draws (s : State) : s.recordRace.draws = s.draws := rfl
@[simp] theorem State.recordRace_endDraws (s : State) : s.recordRace.endDraws = s.endDraws := rfl
@[simp] theorem State.recordRace_readData (s : State) : s.recordRace.readData = s.readData := rfl
@[simp] theorem State.recordRace_host (s : State) : s.recordRace.host = s.host := rfl
@[simp] theorem State.recordRace_schedule (s : State) : s.recordRace.schedule = s.schedule := rfl

@[simp] theorem State.recordSideFx_cfg (s : State) : s.recordSideFx.cfg = s.cfg := rfl
@[simp] theorem State.recordSideFx_ieDone (s : State) : s.recordSideFx.ieDone = s.ieDone := rfl
@[simp] theorem State.recordSideFx_ieErr (s : State) : s.recordSideFx.ieErr = s.ieErr := rfl
@[simp] theorem State.recordSideFx_ieOvr (s : State) : s.recordSideFx.ieOvr = s.ieOvr := rfl
@[simp] theorem State.recordSideFx_busy (s : State) : s.recordSideFx.busy = s.busy := rfl
@[simp] theorem State.recordSideFx_done (s : State) : s.recordSideFx.done = s.done := rfl
@[simp] theorem State.recordSideFx_err (s : State) : s.recordSideFx.err = s.err := rfl
@[simp] theorem State.recordSideFx_ovr (s : State) : s.recordSideFx.ovr = s.ovr := rfl
@[simp] theorem State.recordSideFx_errcode (s : State) : s.recordSideFx.errcode = s.errcode := rfl
@[simp] theorem State.recordSideFx_cmd (s : State) : s.recordSideFx.cmd = s.cmd := rfl
@[simp] theorem State.recordSideFx_acc (s : State) : s.recordSideFx.acc = s.acc := rfl
@[simp] theorem State.recordSideFx_src (s : State) : s.recordSideFx.src = s.src := rfl
@[simp] theorem State.recordSideFx_len (s : State) : s.recordSideFx.len = s.len := rfl
@[simp] theorem State.recordSideFx_tbl (s : State) : s.recordSideFx.tbl = s.tbl := rfl
@[simp] theorem State.recordSideFx_count (s : State) : s.recordSideFx.count = s.count := rfl
@[simp] theorem State.recordSideFx_wsize (s : State) : s.recordSideFx.wsize = s.wsize := rfl
@[simp] theorem State.recordSideFx_erraddr (s : State) : s.recordSideFx.erraddr = s.erraddr := rfl
@[simp] theorem State.recordSideFx_mem (s : State) : s.recordSideFx.mem = s.mem := rfl
@[simp] theorem State.recordSideFx_hostFaults (s : State) : s.recordSideFx.hostFaults = { s.hostFaults with hostSideFx := true } := rfl
@[simp] theorem State.recordSideFx_draws (s : State) : s.recordSideFx.draws = s.draws := rfl
@[simp] theorem State.recordSideFx_endDraws (s : State) : s.recordSideFx.endDraws = s.endDraws := rfl
@[simp] theorem State.recordSideFx_readData (s : State) : s.recordSideFx.readData = s.readData := rfl
@[simp] theorem State.recordSideFx_host (s : State) : s.recordSideFx.host = s.host := rfl
@[simp] theorem State.recordSideFx_schedule (s : State) : s.recordSideFx.schedule = s.schedule := rfl

@[simp] theorem State.latch_cfg (s : State) (v : Word) : (s.latch v).cfg = s.cfg := rfl
@[simp] theorem State.latch_ieDone (s : State) (v : Word) : (s.latch v).ieDone = s.ieDone := rfl
@[simp] theorem State.latch_ieErr (s : State) (v : Word) : (s.latch v).ieErr = s.ieErr := rfl
@[simp] theorem State.latch_ieOvr (s : State) (v : Word) : (s.latch v).ieOvr = s.ieOvr := rfl
@[simp] theorem State.latch_busy (s : State) (v : Word) : (s.latch v).busy = true := rfl
@[simp] theorem State.latch_done (s : State) (v : Word) : (s.latch v).done = false := rfl
@[simp] theorem State.latch_err (s : State) (v : Word) : (s.latch v).err = false := rfl
@[simp] theorem State.latch_ovr (s : State) (v : Word) : (s.latch v).ovr = s.ovr := rfl
@[simp] theorem State.latch_errcode (s : State) (v : Word) : (s.latch v).errcode = .none := rfl
@[simp] theorem State.latch_cmd (s : State) (v : Word) : (s.latch v).cmd = v := rfl
@[simp] theorem State.latch_acc (s : State) (v : Word) : (s.latch v).acc = s.acc := rfl
@[simp] theorem State.latch_src (s : State) (v : Word) : (s.latch v).src = s.src := rfl
@[simp] theorem State.latch_len (s : State) (v : Word) : (s.latch v).len = s.len := rfl
@[simp] theorem State.latch_tbl (s : State) (v : Word) : (s.latch v).tbl = s.tbl := rfl
@[simp] theorem State.latch_count (s : State) (v : Word) : (s.latch v).count = s.count := rfl
@[simp] theorem State.latch_wsize (s : State) (v : Word) : (s.latch v).wsize = s.wsize := rfl
@[simp] theorem State.latch_erraddr (s : State) (v : Word) : (s.latch v).erraddr = s.erraddr := rfl
@[simp] theorem State.latch_mem (s : State) (v : Word) : (s.latch v).mem = s.mem := rfl
@[simp] theorem State.latch_hostFaults (s : State) (v : Word) : (s.latch v).hostFaults = s.hostFaults := rfl
@[simp] theorem State.latch_draws (s : State) (v : Word) : (s.latch v).draws = s.draws := rfl
@[simp] theorem State.latch_endDraws (s : State) (v : Word) : (s.latch v).endDraws = s.endDraws := rfl
@[simp] theorem State.latch_readData (s : State) (v : Word) : (s.latch v).readData = s.readData := rfl
@[simp] theorem State.latch_host (s : State) (v : Word) : (s.latch v).host = s.host := rfl
@[simp] theorem State.latch_schedule (s : State) (v : Word) : (s.latch v).schedule = s.schedule := rfl

@[simp] theorem State.complete_cfg (s : State) : s.complete.cfg = s.cfg := rfl
@[simp] theorem State.complete_ieDone (s : State) : s.complete.ieDone = s.ieDone := rfl
@[simp] theorem State.complete_ieErr (s : State) : s.complete.ieErr = s.ieErr := rfl
@[simp] theorem State.complete_ieOvr (s : State) : s.complete.ieOvr = s.ieOvr := rfl
@[simp] theorem State.complete_busy (s : State) : s.complete.busy = false := rfl
@[simp] theorem State.complete_done (s : State) : s.complete.done = true := rfl
@[simp] theorem State.complete_err (s : State) : s.complete.err = s.err := rfl
@[simp] theorem State.complete_ovr (s : State) : s.complete.ovr = s.ovr := rfl
@[simp] theorem State.complete_errcode (s : State) : s.complete.errcode = s.errcode := rfl
@[simp] theorem State.complete_cmd (s : State) : s.complete.cmd = s.cmd := rfl
@[simp] theorem State.complete_acc (s : State) : s.complete.acc = s.acc := rfl
@[simp] theorem State.complete_src (s : State) : s.complete.src = s.src := rfl
@[simp] theorem State.complete_len (s : State) : s.complete.len = s.len := rfl
@[simp] theorem State.complete_tbl (s : State) : s.complete.tbl = s.tbl := rfl
@[simp] theorem State.complete_count (s : State) : s.complete.count = s.count := rfl
@[simp] theorem State.complete_wsize (s : State) : s.complete.wsize = s.wsize := rfl
@[simp] theorem State.complete_erraddr (s : State) : s.complete.erraddr = s.erraddr := rfl
@[simp] theorem State.complete_mem (s : State) : s.complete.mem = s.mem := rfl
@[simp] theorem State.complete_hostFaults (s : State) : s.complete.hostFaults = s.hostFaults := rfl
@[simp] theorem State.complete_draws (s : State) : s.complete.draws = s.draws := rfl
@[simp] theorem State.complete_endDraws (s : State) : s.complete.endDraws = s.endDraws := rfl
@[simp] theorem State.complete_readData (s : State) : s.complete.readData = s.readData := rfl
@[simp] theorem State.complete_host (s : State) : s.complete.host = s.host := rfl
@[simp] theorem State.complete_schedule (s : State) : s.complete.schedule = s.schedule := rfl

@[simp] theorem State.raiseError_cfg (s : State) (c : ErrCode) (a : Option Word) : (s.raiseError c a).cfg = s.cfg := rfl
@[simp] theorem State.raiseError_ieDone (s : State) (c : ErrCode) (a : Option Word) : (s.raiseError c a).ieDone = s.ieDone := rfl
@[simp] theorem State.raiseError_ieErr (s : State) (c : ErrCode) (a : Option Word) : (s.raiseError c a).ieErr = s.ieErr := rfl
@[simp] theorem State.raiseError_ieOvr (s : State) (c : ErrCode) (a : Option Word) : (s.raiseError c a).ieOvr = s.ieOvr := rfl
@[simp] theorem State.raiseError_busy (s : State) (c : ErrCode) (a : Option Word) : (s.raiseError c a).busy = false := rfl
@[simp] theorem State.raiseError_done (s : State) (c : ErrCode) (a : Option Word) : (s.raiseError c a).done = true := rfl
@[simp] theorem State.raiseError_err (s : State) (c : ErrCode) (a : Option Word) : (s.raiseError c a).err = true := rfl
@[simp] theorem State.raiseError_ovr (s : State) (c : ErrCode) (a : Option Word) : (s.raiseError c a).ovr = s.ovr := rfl
@[simp] theorem State.raiseError_errcode (s : State) (c : ErrCode) (a : Option Word) : (s.raiseError c a).errcode = c := rfl
@[simp] theorem State.raiseError_cmd (s : State) (c : ErrCode) (a : Option Word) : (s.raiseError c a).cmd = s.cmd := rfl
@[simp] theorem State.raiseError_acc (s : State) (c : ErrCode) (a : Option Word) : (s.raiseError c a).acc = s.acc := rfl
@[simp] theorem State.raiseError_src (s : State) (c : ErrCode) (a : Option Word) : (s.raiseError c a).src = s.src := rfl
@[simp] theorem State.raiseError_len (s : State) (c : ErrCode) (a : Option Word) : (s.raiseError c a).len = s.len := rfl
@[simp] theorem State.raiseError_tbl (s : State) (c : ErrCode) (a : Option Word) : (s.raiseError c a).tbl = s.tbl := rfl
@[simp] theorem State.raiseError_count (s : State) (c : ErrCode) (a : Option Word) : (s.raiseError c a).count = s.count := rfl
@[simp] theorem State.raiseError_wsize (s : State) (c : ErrCode) (a : Option Word) : (s.raiseError c a).wsize = s.wsize := rfl
@[simp] theorem State.raiseError_erraddr (s : State) (c : ErrCode) (a : Option Word) : (s.raiseError c a).erraddr = a.getD s.erraddr := rfl
@[simp] theorem State.raiseError_mem (s : State) (c : ErrCode) (a : Option Word) : (s.raiseError c a).mem = s.mem := rfl
@[simp] theorem State.raiseError_hostFaults (s : State) (c : ErrCode) (a : Option Word) : (s.raiseError c a).hostFaults = s.hostFaults := rfl
@[simp] theorem State.raiseError_draws (s : State) (c : ErrCode) (a : Option Word) : (s.raiseError c a).draws = s.draws := rfl
@[simp] theorem State.raiseError_endDraws (s : State) (c : ErrCode) (a : Option Word) : (s.raiseError c a).endDraws = s.endDraws := rfl
@[simp] theorem State.raiseError_readData (s : State) (c : ErrCode) (a : Option Word) : (s.raiseError c a).readData = s.readData := rfl
@[simp] theorem State.raiseError_host (s : State) (c : ErrCode) (a : Option Word) : (s.raiseError c a).host = s.host := rfl
@[simp] theorem State.raiseError_schedule (s : State) (c : ErrCode) (a : Option Word) : (s.raiseError c a).schedule = s.schedule := rfl

@[simp] theorem State.acknowledge_cfg (s : State) : s.acknowledge.cfg = s.cfg := rfl
@[simp] theorem State.acknowledge_ieDone (s : State) : s.acknowledge.ieDone = s.ieDone := rfl
@[simp] theorem State.acknowledge_ieErr (s : State) : s.acknowledge.ieErr = s.ieErr := rfl
@[simp] theorem State.acknowledge_ieOvr (s : State) : s.acknowledge.ieOvr = s.ieOvr := rfl
@[simp] theorem State.acknowledge_busy (s : State) : s.acknowledge.busy = s.busy := rfl
@[simp] theorem State.acknowledge_done (s : State) : s.acknowledge.done = s.done := rfl
@[simp] theorem State.acknowledge_err (s : State) : s.acknowledge.err = false := rfl
@[simp] theorem State.acknowledge_ovr (s : State) : s.acknowledge.ovr = s.ovr := rfl
@[simp] theorem State.acknowledge_errcode (s : State) : s.acknowledge.errcode = .none := rfl
@[simp] theorem State.acknowledge_cmd (s : State) : s.acknowledge.cmd = s.cmd := rfl
@[simp] theorem State.acknowledge_acc (s : State) : s.acknowledge.acc = s.acc := rfl
@[simp] theorem State.acknowledge_src (s : State) : s.acknowledge.src = s.src := rfl
@[simp] theorem State.acknowledge_len (s : State) : s.acknowledge.len = s.len := rfl
@[simp] theorem State.acknowledge_tbl (s : State) : s.acknowledge.tbl = s.tbl := rfl
@[simp] theorem State.acknowledge_count (s : State) : s.acknowledge.count = s.count := rfl
@[simp] theorem State.acknowledge_wsize (s : State) : s.acknowledge.wsize = s.wsize := rfl
@[simp] theorem State.acknowledge_erraddr (s : State) : s.acknowledge.erraddr = s.erraddr := rfl
@[simp] theorem State.acknowledge_mem (s : State) : s.acknowledge.mem = s.mem := rfl
@[simp] theorem State.acknowledge_hostFaults (s : State) : s.acknowledge.hostFaults = s.hostFaults := rfl
@[simp] theorem State.acknowledge_draws (s : State) : s.acknowledge.draws = s.draws := rfl
@[simp] theorem State.acknowledge_endDraws (s : State) : s.acknowledge.endDraws = s.endDraws := rfl
@[simp] theorem State.acknowledge_readData (s : State) : s.acknowledge.readData = s.readData := rfl
@[simp] theorem State.acknowledge_host (s : State) : s.acknowledge.host = s.host := rfl
@[simp] theorem State.acknowledge_schedule (s : State) : s.acknowledge.schedule = s.schedule := rfl

@[simp] theorem State.dropWrite_cfg (s : State) : s.dropWrite.cfg = s.cfg := rfl
@[simp] theorem State.dropWrite_ieDone (s : State) : s.dropWrite.ieDone = s.ieDone := rfl
@[simp] theorem State.dropWrite_ieErr (s : State) : s.dropWrite.ieErr = s.ieErr := rfl
@[simp] theorem State.dropWrite_ieOvr (s : State) : s.dropWrite.ieOvr = s.ieOvr := rfl
@[simp] theorem State.dropWrite_busy (s : State) : s.dropWrite.busy = s.busy := rfl
@[simp] theorem State.dropWrite_done (s : State) : s.dropWrite.done = s.done := rfl
@[simp] theorem State.dropWrite_err (s : State) : s.dropWrite.err = s.err := rfl
@[simp] theorem State.dropWrite_ovr (s : State) : s.dropWrite.ovr = true := rfl
@[simp] theorem State.dropWrite_errcode (s : State) : s.dropWrite.errcode = s.errcode := rfl
@[simp] theorem State.dropWrite_cmd (s : State) : s.dropWrite.cmd = s.cmd := rfl
@[simp] theorem State.dropWrite_acc (s : State) : s.dropWrite.acc = s.acc := rfl
@[simp] theorem State.dropWrite_src (s : State) : s.dropWrite.src = s.src := rfl
@[simp] theorem State.dropWrite_len (s : State) : s.dropWrite.len = s.len := rfl
@[simp] theorem State.dropWrite_tbl (s : State) : s.dropWrite.tbl = s.tbl := rfl
@[simp] theorem State.dropWrite_count (s : State) : s.dropWrite.count = s.count := rfl
@[simp] theorem State.dropWrite_wsize (s : State) : s.dropWrite.wsize = s.wsize := rfl
@[simp] theorem State.dropWrite_erraddr (s : State) : s.dropWrite.erraddr = s.erraddr := rfl
@[simp] theorem State.dropWrite_mem (s : State) : s.dropWrite.mem = s.mem := rfl
@[simp] theorem State.dropWrite_hostFaults (s : State) : s.dropWrite.hostFaults = s.hostFaults := rfl
@[simp] theorem State.dropWrite_draws (s : State) : s.dropWrite.draws = s.draws := rfl
@[simp] theorem State.dropWrite_endDraws (s : State) : s.dropWrite.endDraws = s.endDraws := rfl
@[simp] theorem State.dropWrite_readData (s : State) : s.dropWrite.readData = s.readData := rfl
@[simp] theorem State.dropWrite_host (s : State) : s.dropWrite.host = s.host := rfl
@[simp] theorem State.dropWrite_schedule (s : State) : s.dropWrite.schedule = s.schedule := rfl

@[simp] theorem State.writeCtrl_cfg (s : State) (v : Word) : (s.writeCtrl v).cfg = s.cfg := rfl
@[simp] theorem State.writeCtrl_ieDone (s : State) (v : Word) : (s.writeCtrl v).ieDone = v.getLsbD 0 := rfl
@[simp] theorem State.writeCtrl_ieErr (s : State) (v : Word) : (s.writeCtrl v).ieErr = v.getLsbD 1 := rfl
@[simp] theorem State.writeCtrl_ieOvr (s : State) (v : Word) : (s.writeCtrl v).ieOvr = v.getLsbD 2 := rfl
@[simp] theorem State.writeCtrl_busy (s : State) (v : Word) : (s.writeCtrl v).busy = s.busy := rfl
@[simp] theorem State.writeCtrl_done (s : State) (v : Word) : (s.writeCtrl v).done = s.done := rfl
@[simp] theorem State.writeCtrl_err (s : State) (v : Word) : (s.writeCtrl v).err = s.err := rfl
@[simp] theorem State.writeCtrl_ovr (s : State) (v : Word) : (s.writeCtrl v).ovr = s.ovr := rfl
@[simp] theorem State.writeCtrl_errcode (s : State) (v : Word) : (s.writeCtrl v).errcode = s.errcode := rfl
@[simp] theorem State.writeCtrl_cmd (s : State) (v : Word) : (s.writeCtrl v).cmd = s.cmd := rfl
@[simp] theorem State.writeCtrl_acc (s : State) (v : Word) : (s.writeCtrl v).acc = s.acc := rfl
@[simp] theorem State.writeCtrl_src (s : State) (v : Word) : (s.writeCtrl v).src = s.src := rfl
@[simp] theorem State.writeCtrl_len (s : State) (v : Word) : (s.writeCtrl v).len = s.len := rfl
@[simp] theorem State.writeCtrl_tbl (s : State) (v : Word) : (s.writeCtrl v).tbl = s.tbl := rfl
@[simp] theorem State.writeCtrl_count (s : State) (v : Word) : (s.writeCtrl v).count = s.count := rfl
@[simp] theorem State.writeCtrl_wsize (s : State) (v : Word) : (s.writeCtrl v).wsize = s.wsize := rfl
@[simp] theorem State.writeCtrl_erraddr (s : State) (v : Word) : (s.writeCtrl v).erraddr = s.erraddr := rfl
@[simp] theorem State.writeCtrl_mem (s : State) (v : Word) : (s.writeCtrl v).mem = s.mem := rfl
@[simp] theorem State.writeCtrl_hostFaults (s : State) (v : Word) : (s.writeCtrl v).hostFaults = s.hostFaults := rfl
@[simp] theorem State.writeCtrl_draws (s : State) (v : Word) : (s.writeCtrl v).draws = s.draws := rfl
@[simp] theorem State.writeCtrl_endDraws (s : State) (v : Word) : (s.writeCtrl v).endDraws = s.endDraws := rfl
@[simp] theorem State.writeCtrl_readData (s : State) (v : Word) : (s.writeCtrl v).readData = s.readData := rfl
@[simp] theorem State.writeCtrl_host (s : State) (v : Word) : (s.writeCtrl v).host = s.host := rfl
@[simp] theorem State.writeCtrl_schedule (s : State) (v : Word) : (s.writeCtrl v).schedule = s.schedule := rfl

@[simp] theorem State.setHostReg_cfg (s : State) (n : Nat) (v : Word) : (s.setHostReg n v).cfg = s.cfg := rfl
@[simp] theorem State.setHostReg_ieDone (s : State) (n : Nat) (v : Word) : (s.setHostReg n v).ieDone = s.ieDone := rfl
@[simp] theorem State.setHostReg_ieErr (s : State) (n : Nat) (v : Word) : (s.setHostReg n v).ieErr = s.ieErr := rfl
@[simp] theorem State.setHostReg_ieOvr (s : State) (n : Nat) (v : Word) : (s.setHostReg n v).ieOvr = s.ieOvr := rfl
@[simp] theorem State.setHostReg_busy (s : State) (n : Nat) (v : Word) : (s.setHostReg n v).busy = s.busy := rfl
@[simp] theorem State.setHostReg_done (s : State) (n : Nat) (v : Word) : (s.setHostReg n v).done = s.done := rfl
@[simp] theorem State.setHostReg_err (s : State) (n : Nat) (v : Word) : (s.setHostReg n v).err = s.err := rfl
@[simp] theorem State.setHostReg_ovr (s : State) (n : Nat) (v : Word) : (s.setHostReg n v).ovr = s.ovr := rfl
@[simp] theorem State.setHostReg_errcode (s : State) (n : Nat) (v : Word) : (s.setHostReg n v).errcode = s.errcode := rfl
@[simp] theorem State.setHostReg_cmd (s : State) (n : Nat) (v : Word) : (s.setHostReg n v).cmd = s.cmd := rfl
@[simp] theorem State.setHostReg_acc (s : State) (n : Nat) (v : Word) : (s.setHostReg n v).acc = s.acc := rfl
@[simp] theorem State.setHostReg_src (s : State) (n : Nat) (v : Word) : (s.setHostReg n v).src = s.src := rfl
@[simp] theorem State.setHostReg_len (s : State) (n : Nat) (v : Word) : (s.setHostReg n v).len = s.len := rfl
@[simp] theorem State.setHostReg_tbl (s : State) (n : Nat) (v : Word) : (s.setHostReg n v).tbl = s.tbl := rfl
@[simp] theorem State.setHostReg_count (s : State) (n : Nat) (v : Word) : (s.setHostReg n v).count = s.count := rfl
@[simp] theorem State.setHostReg_wsize (s : State) (n : Nat) (v : Word) : (s.setHostReg n v).wsize = s.wsize := rfl
@[simp] theorem State.setHostReg_erraddr (s : State) (n : Nat) (v : Word) : (s.setHostReg n v).erraddr = s.erraddr := rfl
@[simp] theorem State.setHostReg_mem (s : State) (n : Nat) (v : Word) : (s.setHostReg n v).mem = s.mem := rfl
@[simp] theorem State.setHostReg_hostFaults (s : State) (n : Nat) (v : Word) : (s.setHostReg n v).hostFaults = s.hostFaults := rfl
@[simp] theorem State.setHostReg_draws (s : State) (n : Nat) (v : Word) : (s.setHostReg n v).draws = s.draws := rfl
@[simp] theorem State.setHostReg_endDraws (s : State) (n : Nat) (v : Word) : (s.setHostReg n v).endDraws = s.endDraws := rfl
@[simp] theorem State.setHostReg_readData (s : State) (n : Nat) (v : Word) : (s.setHostReg n v).readData = s.readData := rfl
@[simp] theorem State.setHostReg_host (s : State) (n : Nat) (v : Word) : (s.setHostReg n v).host = { s.host with regs := writeAt s.host.regs n v } := rfl
@[simp] theorem State.setHostReg_schedule (s : State) (n : Nat) (v : Word) : (s.setHostReg n v).schedule = s.schedule := rfl

@[simp] theorem State.setPos_cfg (s : State) (p : Nat) : (s.setPos p).cfg = s.cfg := rfl
@[simp] theorem State.setPos_ieDone (s : State) (p : Nat) : (s.setPos p).ieDone = s.ieDone := rfl
@[simp] theorem State.setPos_ieErr (s : State) (p : Nat) : (s.setPos p).ieErr = s.ieErr := rfl
@[simp] theorem State.setPos_ieOvr (s : State) (p : Nat) : (s.setPos p).ieOvr = s.ieOvr := rfl
@[simp] theorem State.setPos_busy (s : State) (p : Nat) : (s.setPos p).busy = s.busy := rfl
@[simp] theorem State.setPos_done (s : State) (p : Nat) : (s.setPos p).done = s.done := rfl
@[simp] theorem State.setPos_err (s : State) (p : Nat) : (s.setPos p).err = s.err := rfl
@[simp] theorem State.setPos_ovr (s : State) (p : Nat) : (s.setPos p).ovr = s.ovr := rfl
@[simp] theorem State.setPos_errcode (s : State) (p : Nat) : (s.setPos p).errcode = s.errcode := rfl
@[simp] theorem State.setPos_cmd (s : State) (p : Nat) : (s.setPos p).cmd = s.cmd := rfl
@[simp] theorem State.setPos_acc (s : State) (p : Nat) : (s.setPos p).acc = s.acc := rfl
@[simp] theorem State.setPos_src (s : State) (p : Nat) : (s.setPos p).src = s.src := rfl
@[simp] theorem State.setPos_len (s : State) (p : Nat) : (s.setPos p).len = s.len := rfl
@[simp] theorem State.setPos_tbl (s : State) (p : Nat) : (s.setPos p).tbl = s.tbl := rfl
@[simp] theorem State.setPos_count (s : State) (p : Nat) : (s.setPos p).count = s.count := rfl
@[simp] theorem State.setPos_wsize (s : State) (p : Nat) : (s.setPos p).wsize = s.wsize := rfl
@[simp] theorem State.setPos_erraddr (s : State) (p : Nat) : (s.setPos p).erraddr = s.erraddr := rfl
@[simp] theorem State.setPos_mem (s : State) (p : Nat) : (s.setPos p).mem = s.mem := rfl
@[simp] theorem State.setPos_hostFaults (s : State) (p : Nat) : (s.setPos p).hostFaults = s.hostFaults := rfl
@[simp] theorem State.setPos_draws (s : State) (p : Nat) : (s.setPos p).draws = s.draws := rfl
@[simp] theorem State.setPos_endDraws (s : State) (p : Nat) : (s.setPos p).endDraws = s.endDraws := rfl
@[simp] theorem State.setPos_readData (s : State) (p : Nat) : (s.setPos p).readData = s.readData := rfl
@[simp] theorem State.setPos_host (s : State) (p : Nat) : (s.setPos p).host = { s.host with pos := p } := rfl
@[simp] theorem State.setPos_schedule (s : State) (p : Nat) : (s.setPos p).schedule = s.schedule := rfl

@[simp] theorem State.advance_cfg (s : State) : s.advance.cfg = s.cfg := rfl
@[simp] theorem State.advance_ieDone (s : State) : s.advance.ieDone = s.ieDone := rfl
@[simp] theorem State.advance_ieErr (s : State) : s.advance.ieErr = s.ieErr := rfl
@[simp] theorem State.advance_ieOvr (s : State) : s.advance.ieOvr = s.ieOvr := rfl
@[simp] theorem State.advance_busy (s : State) : s.advance.busy = s.busy := rfl
@[simp] theorem State.advance_done (s : State) : s.advance.done = s.done := rfl
@[simp] theorem State.advance_err (s : State) : s.advance.err = s.err := rfl
@[simp] theorem State.advance_ovr (s : State) : s.advance.ovr = s.ovr := rfl
@[simp] theorem State.advance_errcode (s : State) : s.advance.errcode = s.errcode := rfl
@[simp] theorem State.advance_cmd (s : State) : s.advance.cmd = s.cmd := rfl
@[simp] theorem State.advance_acc (s : State) : s.advance.acc = s.acc := rfl
@[simp] theorem State.advance_src (s : State) : s.advance.src = s.src := rfl
@[simp] theorem State.advance_len (s : State) : s.advance.len = s.len := rfl
@[simp] theorem State.advance_tbl (s : State) : s.advance.tbl = s.tbl := rfl
@[simp] theorem State.advance_count (s : State) : s.advance.count = s.count := rfl
@[simp] theorem State.advance_wsize (s : State) : s.advance.wsize = s.wsize := rfl
@[simp] theorem State.advance_erraddr (s : State) : s.advance.erraddr = s.erraddr := rfl
@[simp] theorem State.advance_mem (s : State) : s.advance.mem = s.mem := rfl
@[simp] theorem State.advance_hostFaults (s : State) : s.advance.hostFaults = s.hostFaults := rfl
@[simp] theorem State.advance_draws (s : State) : s.advance.draws = s.draws := rfl
@[simp] theorem State.advance_endDraws (s : State) : s.advance.endDraws = s.endDraws := rfl
@[simp] theorem State.advance_readData (s : State) : s.advance.readData = s.readData := rfl
@[simp] theorem State.advance_host (s : State) : s.advance.host = { s.host with pos := s.host.pos + 1 } := rfl
@[simp] theorem State.advance_schedule (s : State) : s.advance.schedule = s.schedule := rfl

@[simp] theorem State.popTurn_cfg (s : State) : s.popTurn.cfg = s.cfg := rfl
@[simp] theorem State.popTurn_ieDone (s : State) : s.popTurn.ieDone = s.ieDone := rfl
@[simp] theorem State.popTurn_ieErr (s : State) : s.popTurn.ieErr = s.ieErr := rfl
@[simp] theorem State.popTurn_ieOvr (s : State) : s.popTurn.ieOvr = s.ieOvr := rfl
@[simp] theorem State.popTurn_busy (s : State) : s.popTurn.busy = s.busy := rfl
@[simp] theorem State.popTurn_done (s : State) : s.popTurn.done = s.done := rfl
@[simp] theorem State.popTurn_err (s : State) : s.popTurn.err = s.err := rfl
@[simp] theorem State.popTurn_ovr (s : State) : s.popTurn.ovr = s.ovr := rfl
@[simp] theorem State.popTurn_errcode (s : State) : s.popTurn.errcode = s.errcode := rfl
@[simp] theorem State.popTurn_cmd (s : State) : s.popTurn.cmd = s.cmd := rfl
@[simp] theorem State.popTurn_acc (s : State) : s.popTurn.acc = s.acc := rfl
@[simp] theorem State.popTurn_src (s : State) : s.popTurn.src = s.src := rfl
@[simp] theorem State.popTurn_len (s : State) : s.popTurn.len = s.len := rfl
@[simp] theorem State.popTurn_tbl (s : State) : s.popTurn.tbl = s.tbl := rfl
@[simp] theorem State.popTurn_count (s : State) : s.popTurn.count = s.count := rfl
@[simp] theorem State.popTurn_wsize (s : State) : s.popTurn.wsize = s.wsize := rfl
@[simp] theorem State.popTurn_erraddr (s : State) : s.popTurn.erraddr = s.erraddr := rfl
@[simp] theorem State.popTurn_mem (s : State) : s.popTurn.mem = s.mem := rfl
@[simp] theorem State.popTurn_hostFaults (s : State) : s.popTurn.hostFaults = s.hostFaults := rfl
@[simp] theorem State.popTurn_draws (s : State) : s.popTurn.draws = s.draws := rfl
@[simp] theorem State.popTurn_endDraws (s : State) : s.popTurn.endDraws = s.endDraws := rfl
@[simp] theorem State.popTurn_readData (s : State) : s.popTurn.readData = s.readData := rfl
@[simp] theorem State.popTurn_host (s : State) : s.popTurn.host = s.host := rfl
@[simp] theorem State.popTurn_schedule (s : State) : s.popTurn.schedule = s.schedule.tail := rfl

@[simp] theorem State.clearRegs_cfg (s : State) : s.clearRegs.cfg = s.cfg := rfl
@[simp] theorem State.clearRegs_ieDone (s : State) : s.clearRegs.ieDone = false := rfl
@[simp] theorem State.clearRegs_ieErr (s : State) : s.clearRegs.ieErr = false := rfl
@[simp] theorem State.clearRegs_ieOvr (s : State) : s.clearRegs.ieOvr = false := rfl
@[simp] theorem State.clearRegs_busy (s : State) : s.clearRegs.busy = false := rfl
@[simp] theorem State.clearRegs_done (s : State) : s.clearRegs.done = false := rfl
@[simp] theorem State.clearRegs_err (s : State) : s.clearRegs.err = false := rfl
@[simp] theorem State.clearRegs_ovr (s : State) : s.clearRegs.ovr = false := rfl
@[simp] theorem State.clearRegs_errcode (s : State) : s.clearRegs.errcode = .none := rfl
@[simp] theorem State.clearRegs_cmd (s : State) : s.clearRegs.cmd = 0#32 := rfl
@[simp] theorem State.clearRegs_acc (s : State) : s.clearRegs.acc = 1#32 := rfl
@[simp] theorem State.clearRegs_src (s : State) : s.clearRegs.src = 0#32 := rfl
@[simp] theorem State.clearRegs_len (s : State) : s.clearRegs.len = 0#32 := rfl
@[simp] theorem State.clearRegs_tbl (s : State) : s.clearRegs.tbl = 0#32 := rfl
@[simp] theorem State.clearRegs_count (s : State) : s.clearRegs.count = 0#32 := rfl
@[simp] theorem State.clearRegs_wsize (s : State) : s.clearRegs.wsize = 0#32 := rfl
@[simp] theorem State.clearRegs_erraddr (s : State) : s.clearRegs.erraddr = 0#32 := rfl
@[simp] theorem State.clearRegs_mem (s : State) : s.clearRegs.mem = s.mem := rfl
@[simp] theorem State.clearRegs_hostFaults (s : State) : s.clearRegs.hostFaults = s.hostFaults := rfl
@[simp] theorem State.clearRegs_draws (s : State) : s.clearRegs.draws = s.draws := rfl
@[simp] theorem State.clearRegs_endDraws (s : State) : s.clearRegs.endDraws = s.endDraws := rfl
@[simp] theorem State.clearRegs_readData (s : State) : s.clearRegs.readData = s.readData := rfl
@[simp] theorem State.clearRegs_host (s : State) : s.clearRegs.host = s.host := rfl
@[simp] theorem State.clearRegs_schedule (s : State) : s.clearRegs.schedule = s.schedule := rfl

@[simp] theorem State.writeStatus_cfg (s : State) (v : Word) : (s.writeStatus v).cfg = s.cfg := by
  unfold State.writeStatus; split <;> rfl
@[simp] theorem State.writeStatus_ieDone (s : State) (v : Word) : (s.writeStatus v).ieDone = s.ieDone := by
  unfold State.writeStatus; split <;> rfl
@[simp] theorem State.writeStatus_ieErr (s : State) (v : Word) : (s.writeStatus v).ieErr = s.ieErr := by
  unfold State.writeStatus; split <;> rfl
@[simp] theorem State.writeStatus_ieOvr (s : State) (v : Word) : (s.writeStatus v).ieOvr = s.ieOvr := by
  unfold State.writeStatus; split <;> rfl
@[simp] theorem State.writeStatus_busy (s : State) (v : Word) : (s.writeStatus v).busy = s.busy := by
  unfold State.writeStatus; split <;> rfl
@[simp] theorem State.writeStatus_cmd (s : State) (v : Word) : (s.writeStatus v).cmd = s.cmd := by
  unfold State.writeStatus; split <;> rfl
@[simp] theorem State.writeStatus_acc (s : State) (v : Word) : (s.writeStatus v).acc = s.acc := by
  unfold State.writeStatus; split <;> rfl
@[simp] theorem State.writeStatus_src (s : State) (v : Word) : (s.writeStatus v).src = s.src := by
  unfold State.writeStatus; split <;> rfl
@[simp] theorem State.writeStatus_len (s : State) (v : Word) : (s.writeStatus v).len = s.len := by
  unfold State.writeStatus; split <;> rfl
@[simp] theorem State.writeStatus_tbl (s : State) (v : Word) : (s.writeStatus v).tbl = s.tbl := by
  unfold State.writeStatus; split <;> rfl
@[simp] theorem State.writeStatus_count (s : State) (v : Word) : (s.writeStatus v).count = s.count := by
  unfold State.writeStatus; split <;> rfl
@[simp] theorem State.writeStatus_wsize (s : State) (v : Word) : (s.writeStatus v).wsize = s.wsize := by
  unfold State.writeStatus; split <;> rfl
@[simp] theorem State.writeStatus_erraddr (s : State) (v : Word) : (s.writeStatus v).erraddr = s.erraddr := by
  unfold State.writeStatus; split <;> rfl
@[simp] theorem State.writeStatus_mem (s : State) (v : Word) : (s.writeStatus v).mem = s.mem := by
  unfold State.writeStatus; split <;> rfl
@[simp] theorem State.writeStatus_hostFaults (s : State) (v : Word) : (s.writeStatus v).hostFaults = s.hostFaults := by
  unfold State.writeStatus; split <;> rfl
@[simp] theorem State.writeStatus_draws (s : State) (v : Word) : (s.writeStatus v).draws = s.draws := by
  unfold State.writeStatus; split <;> rfl
@[simp] theorem State.writeStatus_endDraws (s : State) (v : Word) : (s.writeStatus v).endDraws = s.endDraws := by
  unfold State.writeStatus; split <;> rfl
@[simp] theorem State.writeStatus_readData (s : State) (v : Word) : (s.writeStatus v).readData = s.readData := by
  unfold State.writeStatus; split <;> rfl
@[simp] theorem State.writeStatus_host (s : State) (v : Word) : (s.writeStatus v).host = s.host := by
  unfold State.writeStatus; split <;> rfl
@[simp] theorem State.writeStatus_schedule (s : State) (v : Word) : (s.writeStatus v).schedule = s.schedule := by
  unfold State.writeStatus; split <;> rfl
@[simp] theorem State.writeStatus_done (s : State) (v : Word) :
    (s.writeStatus v).done = (s.done && !v.getLsbD 1) := rfl
@[simp] theorem State.writeStatus_ovr (s : State) (v : Word) :
    (s.writeStatus v).ovr = (s.ovr && !v.getLsbD 3) := rfl
@[simp] theorem State.writeStatus_err (s : State) (v : Word) :
    (s.writeStatus v).err = (s.err && !v.getLsbD 2) := by
  unfold State.writeStatus; split <;> simp_all
@[simp] theorem State.writeStatus_errcode (s : State) (v : Word) :
    (s.writeStatus v).errcode = if v.getLsbD 2 then .none else s.errcode := by
  unfold State.writeStatus; split <;> simp_all

@[simp] theorem State.issue_cfg (s : State) (v : Word) : (s.issue v).cfg = (s.latch v).cfg := by
  unfold State.issue; split <;> rfl
@[simp] theorem State.issue_ieDone (s : State) (v : Word) : (s.issue v).ieDone = (s.latch v).ieDone := by
  unfold State.issue; split <;> rfl
@[simp] theorem State.issue_ieErr (s : State) (v : Word) : (s.issue v).ieErr = (s.latch v).ieErr := by
  unfold State.issue; split <;> rfl
@[simp] theorem State.issue_ieOvr (s : State) (v : Word) : (s.issue v).ieOvr = (s.latch v).ieOvr := by
  unfold State.issue; split <;> rfl
@[simp] theorem State.issue_busy (s : State) (v : Word) : (s.issue v).busy = (s.latch v).busy := by
  unfold State.issue; split <;> rfl
@[simp] theorem State.issue_done (s : State) (v : Word) : (s.issue v).done = (s.latch v).done := by
  unfold State.issue; split <;> rfl
@[simp] theorem State.issue_err (s : State) (v : Word) : (s.issue v).err = (s.latch v).err := by
  unfold State.issue; split <;> rfl
@[simp] theorem State.issue_ovr (s : State) (v : Word) : (s.issue v).ovr = (s.latch v).ovr := by
  unfold State.issue; split <;> rfl
@[simp] theorem State.issue_errcode (s : State) (v : Word) : (s.issue v).errcode = (s.latch v).errcode := by
  unfold State.issue; split <;> rfl
@[simp] theorem State.issue_cmd (s : State) (v : Word) : (s.issue v).cmd = (s.latch v).cmd := by
  unfold State.issue; split <;> rfl
@[simp] theorem State.issue_acc (s : State) (v : Word) : (s.issue v).acc = (s.latch v).acc := by
  unfold State.issue; split <;> rfl
@[simp] theorem State.issue_src (s : State) (v : Word) : (s.issue v).src = (s.latch v).src := by
  unfold State.issue; split <;> rfl
@[simp] theorem State.issue_len (s : State) (v : Word) : (s.issue v).len = (s.latch v).len := by
  unfold State.issue; split <;> rfl
@[simp] theorem State.issue_tbl (s : State) (v : Word) : (s.issue v).tbl = (s.latch v).tbl := by
  unfold State.issue; split <;> rfl
@[simp] theorem State.issue_count (s : State) (v : Word) : (s.issue v).count = (s.latch v).count := by
  unfold State.issue; split <;> rfl
@[simp] theorem State.issue_wsize (s : State) (v : Word) : (s.issue v).wsize = (s.latch v).wsize := by
  unfold State.issue; split <;> rfl
@[simp] theorem State.issue_erraddr (s : State) (v : Word) : (s.issue v).erraddr = (s.latch v).erraddr := by
  unfold State.issue; split <;> rfl
@[simp] theorem State.issue_mem (s : State) (v : Word) : (s.issue v).mem = (s.latch v).mem := by
  unfold State.issue; split <;> rfl
@[simp] theorem State.issue_draws (s : State) (v : Word) : (s.issue v).draws = (s.latch v).draws := by
  unfold State.issue; split <;> rfl
@[simp] theorem State.issue_endDraws (s : State) (v : Word) : (s.issue v).endDraws = (s.latch v).endDraws := by
  unfold State.issue; split <;> rfl
@[simp] theorem State.issue_readData (s : State) (v : Word) : (s.issue v).readData = (s.latch v).readData := by
  unfold State.issue; split <;> rfl
@[simp] theorem State.issue_host (s : State) (v : Word) : (s.issue v).host = (s.latch v).host := by
  unfold State.issue; split <;> rfl
@[simp] theorem State.issue_schedule (s : State) (v : Word) : (s.issue v).schedule = (s.latch v).schedule := by
  unfold State.issue; split <;> rfl

end Sys2Proof.Machine
end

