-- ==== Sys2Proof/Laws/Commands.lean ====
section
/-! SUPPORT. What a command can do: one case list for exec, and the checks in terms of numbers. -/
namespace Sys2Proof.Machine

theorem rangeFits_iff {a n : Nat} : rangeFits a n = true ↔ a + n ≤ addrSpace := by simp [rangeFits]

theorem State.dataFits_iff {s : State} : s.dataFits = true ↔ s.src.toNat + s.len.toNat ≤ addrSpace := rangeFits_iff

theorem State.tableFits_iff {s : State} : s.tableFits = true ↔ s.tbl.toNat + 2 * s.count.toNat ≤ addrSpace :=
  rangeFits_iff

theorem State.tblOdd_iff {s : State} : s.tblOdd = true ↔ s.tbl.toNat % 2 = 1 := by
  simp [State.tblOdd, BitVec.getLsbD, Nat.testBit_zero]

/-- A drawn address lies in its interval. -/
theorem drawAddr_bounds {k lo hi : Nat} (h : lo ≤ hi) (h2 : hi < 2 ^ 32) :
    lo ≤ (drawAddr k lo hi).toNat ∧ (drawAddr k lo hi).toNat ≤ hi := by
  have := Nat.mod_lt (Config.freeNat k) (show hi - lo + 1 > 0 by omega)
  rw [drawAddr, BitVec.toNat_ofNat, Nat.mod_eq_of_lt (by omega)]
  omega

/-- The memory after an abandoned or failed SLIDE, byte by byte. -/
theorem readByte_mixedMem {s : State} (hm : Memory.wf s.mem = true)
    (h : s.tbl.toNat + 2 * s.count.toNat ≤ addrSpace) (b : Nat) :
    readByte s.mixedMem b = if s.tbl.toNat ≤ b ∧ b < s.tbl.toNat + 2 * s.count.toNat then
      (if Config.tableBit s.endDraws b then readByte (slideFrom s.mem s.wsize s.tbl.toNat s.count.toNat) b
        else readByte s.mem b) else readByte s.mem b := by
  unfold State.mixedMem
  rw [readByte_mixSlide hm h]
  split
  · next hb => rw [mixByte, slidByte_eq hm h hb.1 hb.2]
  · rfl

/-- All that ADLER.UPD can end in. -/
theorem execAdlerUpd_cases {s : State} {o : Host.Outcome State Fault Refusal} (h : execAdlerUpd s = o) :
    (s.dataFits = false ∧ o = .next (s.raiseError .range (some s.src))) ∨
    (s.dataFits = true ∧ s.len = 0#32 ∧ o = .next s.complete) ∨
    (s.dataFits = true ∧ s.len ≠ 0#32 ∧ s.dataReply = .ok ∧ o = .next (adlerDone s)) ∨
    (∃ e, s.dataFits = true ∧ s.len ≠ 0#32 ∧ s.dataReply = .error e ∧
      o = .next (adlerBusError s e)) ∨
    (s.dataFits = true ∧ s.len ≠ 0#32 ∧ s.dataReply = .hang ∧ o = .next s) := by
  subst h
  unfold execAdlerUpd
  rcases hf : s.dataFits
  · simp
  · by_cases hl : s.len = 0#32
    · simp [hl]
    · rcases hb : s.dataReply <;> simp [hl]

/-- All that SLIDE can end in. -/
theorem execSlide_cases {s : State} {o : Host.Outcome State Fault Refusal} (h : execSlide s = o) :
    (s.tblOdd = true ∧ o = .next (s.raiseError .align (some s.tbl))) ∨
    (s.tblOdd = false ∧ s.tableFits = false ∧ o = .next (s.raiseError .range (some s.tbl))) ∨
    (s.tblOdd = false ∧ s.tableFits = true ∧ s.count = 0#32 ∧ o = .next s.complete) ∨
    (s.tblOdd = false ∧ s.tableFits = true ∧ s.count ≠ 0#32 ∧
      s.tableReply = .ok ∧ o = .next (slideDone s)) ∨
    (∃ e, s.tblOdd = false ∧ s.tableFits = true ∧ s.count ≠ 0#32 ∧
      s.tableReply = .error e ∧ o = .next (slideBusError s e)) ∨
    (s.tblOdd = false ∧ s.tableFits = true ∧ s.count ≠ 0#32 ∧
      s.tableReply = .hang ∧ o = .next s) := by
  subst h
  unfold execSlide
  rcases ho : s.tblOdd
  · rcases hf : s.tableFits
    · simp
    · by_cases hl : s.count = 0#32
      · simp [hl]
      · rcases hb : s.tableReply <;> simp [hl]
  · simp

/-- No command stops the model: exec always answers a next state. -/
theorem exec_next (i : Instr) (s : State) : ∃ t, exec i s = .next t := by
  cases i with
  | nop => exact ⟨_, rfl⟩
  | adlerUpd =>
    obtain h | h | h | ⟨e, h⟩ | h := execAdlerUpd_cases (s := s) rfl
    · exact ⟨_, h.2⟩
    · exact ⟨_, h.2.2⟩
    · exact ⟨_, h.2.2.2⟩
    · exact ⟨_, h.2.2.2⟩
    · exact ⟨_, h.2.2.2⟩
  | slide =>
    obtain h | h | h | h | ⟨e, h⟩ | h := execSlide_cases (s := s) rfl
    · exact ⟨_, h.2⟩
    · exact ⟨_, h.2.2⟩
    · exact ⟨_, h.2.2.2⟩
    · exact ⟨_, h.2.2.2.2⟩
    · exact ⟨_, h.2.2.2.2⟩
    · exact ⟨_, h.2.2.2.2⟩

theorem engineTurn_next (s : State) : ∃ t, engineTurn s = .next t := by
  unfold engineTurn
  split
  · split
    · exact exec_next _ _
    · exact ⟨_, rfl⟩
  · exact ⟨_, rfl⟩

/-- All that the engine's turn can leave: nothing done, or a completion, with or without a result. -/
theorem engineTurn_cases {s t : State} (h : engineTurn s = .next t) :
    t = s ∨ (s.busy = true ∧ (t = s.complete ∨ (∃ c a, c ≠ .none ∧ t = s.raiseError c a) ∨
      (t = adlerDone s ∧ decode s.cmd = .ok .adlerUpd ∧ s.dataFits = true ∧ s.len ≠ 0#32) ∨
      (∃ e, t = adlerBusError s e ∧ decode s.cmd = .ok .adlerUpd) ∨
      (decode s.cmd = .ok .slide ∧ s.accessRange .slide = some s.tableRange ∧
        (t = slideDone s ∨ ∃ e, t = slideBusError s e)))) := by
  unfold engineTurn at h
  rcases hb : s.busy
  · rw [hb] at h; simp at h; exact .inl h.symm
  · rw [hb] at h; simp only [if_true] at h
    rcases hd : decode s.cmd with r | i
    · rw [hd] at h; simp only [execIllegal, Host.Outcome.next.injEq] at h
      exact .inr ⟨rfl, .inr (.inl ⟨_, _, by simp, h.symm⟩)⟩
    · rw [hd] at h
      simp only at h
      cases i with
      | nop =>
        simp only [exec, execNop, Host.Outcome.next.injEq] at h
        exact .inr ⟨rfl, .inl h.symm⟩
      | adlerUpd =>
        obtain k | k | k | ⟨e, k⟩ | k := execAdlerUpd_cases h
        · exact .inr ⟨rfl, .inr (.inl ⟨_, _, by simp, Host.Outcome.next.inj k.2⟩)⟩
        · exact .inr ⟨rfl, .inl (Host.Outcome.next.inj k.2.2)⟩
        · exact .inr ⟨rfl, .inr (.inr (.inl ⟨Host.Outcome.next.inj k.2.2.2, rfl, k.1, k.2.1⟩))⟩
        · exact .inr ⟨rfl, .inr (.inr (.inr (.inl ⟨e, Host.Outcome.next.inj k.2.2.2, rfl⟩)))⟩
        · exact .inl (Host.Outcome.next.inj k.2.2.2)
      | slide =>
        have hr : s.tblOdd = false → s.tableFits = true → s.count ≠ 0#32 →
            s.accessRange .slide = some s.tableRange := by
          intro h1 h2 h3; simp [State.accessRange, h1, h2, h3]
        obtain k | k | k | k | ⟨e, k⟩ | k := execSlide_cases h
        · exact .inr ⟨rfl, .inr (.inl ⟨_, _, by simp, Host.Outcome.next.inj k.2⟩)⟩
        · exact .inr ⟨rfl, .inr (.inl ⟨_, _, by simp, Host.Outcome.next.inj k.2.2⟩)⟩
        · exact .inr ⟨rfl, .inl (Host.Outcome.next.inj k.2.2.2)⟩
        · exact .inr ⟨rfl, .inr (.inr (.inr (.inr ⟨rfl, hr k.1 k.2.1 k.2.2.1,
            .inl (Host.Outcome.next.inj k.2.2.2.2)⟩)))⟩
        · exact .inr ⟨rfl, .inr (.inr (.inr (.inr ⟨rfl, hr k.1 k.2.1 k.2.2.1,
            .inr ⟨e, Host.Outcome.next.inj k.2.2.2.2⟩⟩)))⟩
        · exact .inl (Host.Outcome.next.inj k.2.2.2.2)

/-- A table that SLIDE accesses lies inside the data space, at an even address, and is not empty. -/
theorem accessRange_slide {s : State} {r : Region} (h : s.accessRange .slide = some r) :
    r = s.tableRange ∧ s.tbl.toNat % 2 = 0 ∧ s.tbl.toNat + 2 * s.count.toNat ≤ addrSpace ∧ s.count ≠ 0#32 := by
  simp only [State.accessRange] at h
  split at h
  · next hc =>
    simp only [Bool.and_eq_true, Bool.not_eq_true', bne_iff_ne, ne_eq] at hc
    refine ⟨(Option.some.inj h).symm, ?_, State.tableFits_iff.1 hc.1.2, hc.2⟩
    have : ¬ s.tbl.toNat % 2 = 1 := by
      rw [← State.tblOdd_iff, hc.1.1]; simp
    omega
  · cases h

/-- The table of a busy SLIDE is the access range of SLIDE. -/
theorem slidTable_some {s : State} {r : Region} (h : s.slidTable = some r) :
    s.busy = true ∧ decode? s.cmd = some .slide ∧ s.accessRange .slide = some r := by
  unfold State.slidTable at h
  split at h
  · next hb =>
    split at h
    · next hd => exact ⟨hb, hd, h⟩
    · cases h
  · cases h

end Sys2Proof.Machine
end

