-- ==== Sys2Proof/Laws/Flags.lean ====
section
/-! SUPPORT. The bits of STATUS and CTRL as read. -/
namespace Sys2Proof.Machine

/-- Bit 0 of a word whose last part is one bit. -/
theorem getLsbD_append_ofBool {n : Nat} (x : BitVec n) (b : Bool) (i : Nat) :
    (x ++ BitVec.ofBool b).getLsbD i = if i = 0 then b else x.getLsbD (i - 1) := by
  rw [BitVec.getLsbD_append]
  rcases i with _ | i
  · cases b <;> rfl
  · simp

theorem statusWord_busy (s : State) : s.statusWord.getLsbD 0 = s.busy := by
  simp only [State.statusWord, getLsbD_append_ofBool]; rfl

theorem statusWord_done (s : State) : s.statusWord.getLsbD 1 = s.done := by
  simp only [State.statusWord, getLsbD_append_ofBool]; rfl

theorem statusWord_err (s : State) : s.statusWord.getLsbD 2 = s.err := by
  simp only [State.statusWord, getLsbD_append_ofBool]; rfl

theorem statusWord_ovr (s : State) : s.statusWord.getLsbD 3 = s.ovr := by
  simp only [State.statusWord, getLsbD_append_ofBool]; rfl

theorem ctrlWord_ieDone (s : State) : s.ctrlWord.getLsbD 0 = s.ieDone := by
  simp only [State.ctrlWord, getLsbD_append_ofBool]; rfl

theorem ctrlWord_ieErr (s : State) : s.ctrlWord.getLsbD 1 = s.ieErr := by
  simp only [State.ctrlWord, getLsbD_append_ofBool]; rfl

theorem ctrlWord_ieOvr (s : State) : s.ctrlWord.getLsbD 2 = s.ieOvr := by
  simp only [State.ctrlWord, getLsbD_append_ofBool]; rfl

end Sys2Proof.Machine
end

