-- ==== Sys2Proof/Laws/PerInstr.lean ====
section
/-! SUPPORT. Facts about each command as syntax, one lemma per constructor. -/

namespace Sys2Proof.Laws.OneOpcode

/-- The word of a command has RSV = 0 and, in OPCODE, an opcode of the map (30_encoding.md R90, R93). -/
def Statement (i : Sys2Proof.Instr) : Prop :=
  Sys2Proof.rsvField (Sys2Proof.encode i) = 0 ∧
    Sys2Proof.opcodeOf (Sys2Proof.opcodeField (Sys2Proof.encode i)) = some i

theorem nop : Statement .nop := by unfold Statement; decide

theorem adlerUpd : Statement .adlerUpd := by unfold Statement; decide

theorem slide : Statement .slide := by unfold Statement; decide

end Sys2Proof.Laws.OneOpcode
end

