-- ==== Sys2Proof/Laws/Port.lean ====
section
/-! SUPPORT. The host's bus: where an access goes, and all that one access can do. -/
namespace Sys2Proof.Machine

@[simp] theorem regAt_offset (r : Reg) : regAt r.offset = some r := by cases r <;> rfl

theorem Reg.offset_lt (r : Reg) : r.offset < 0x030 := by cases r <;> decide

theorem Reg.offset_mod (r : Reg) : r.offset % 4 = 0 := by cases r <;> rfl

/-- Offsets from 0x030 on are reserved (10_state.md R22). -/
theorem regAt_reserved {off : Nat} (h : 0x030 ≤ off) : regAt off = none := by
  unfold regAt
  split <;> first | omega | rfl

/-- An aligned word access of the window goes to the port. -/
theorem target_port {c : Config} {off : Nat} (h1 : off < windowSize) (h2 : off % 4 = 0) :
    target c (c.coreBase + off) .word = .port off := by
  have hm : (Config.window c).meets (c.coreBase + off) Width.word.bytes = true :=
    Region.meets_iff.2 ⟨c.coreBase + off, Region.holds_iff.2 ⟨by simp [Config.window], by simpa [Config.window]⟩,
      Nat.le_refl _, by simp [Width.bytes]⟩
  simp only [target, hm, if_true]
  rw [if_pos ⟨trivial, by omega, by rw [Nat.add_sub_cancel_left]; exact h2⟩, Nat.add_sub_cancel_left]

theorem target_reg (s : State) (r : Reg) : target s.cfg (s.regAddr r) .word = .port r.offset :=
  target_port (Nat.lt_trans r.offset_lt (by decide)) r.offset_mod

/-- A read of a register by its address. -/
theorem busLoad_reg (s : State) (r : Reg) :
    busLoad s (s.regAddr r) .word = .next { s with readData := s.regRead r } := by
  simp only [busLoad, target_reg, State.portRead, regAt_offset]

/-- A write to a register by its address. -/
theorem busStore_reg (s : State) (r : Reg) (v : Word) :
    busStore s (s.regAddr r) .word v = .next (s.regWrite r v) := by
  simp only [busStore, target_reg, State.portWrite, regAt_offset]

/-- What a target says: an access of memory lies inside the data space. -/
theorem target_memory {c : Config} {a : Nat} {w : Width} (h : target c a w = .memory) :
    a + w.bytes ≤ addrSpace := by
  unfold target at h
  split at h
  · split at h <;> cases h
  · split at h
    · cases h
    · omega

/-- An access outside the window and every side-effect location, inside the data space, goes to memory. -/
theorem target_eq_memory {c : Config} {a : Nat} {w : Width} (h1 : a + w.bytes ≤ addrSpace)
    (h2 : (Config.window c).meets a w.bytes = false)
    (h3 : ∀ x, a ≤ x → x < a + w.bytes → inRegions c.sideFx x = false) : target c a w = .memory := by
  unfold target
  rw [if_neg (by simp [h2]), if_neg (by omega), firstIn_eq_none h3]
  rfl

theorem racesAt_iff {s : State} {a n : Nat} :
    s.racesAt a n = true ↔ ∃ r, s.ownedRange = some r ∧ ∃ x, r.holds x = true ∧ a ≤ x ∧ x < a + n := by
  unfold State.racesAt
  split
  · next r hr => simp [hr, Region.meets_iff]
  · next hr => simp [hr]

theorem hostBytes_lt (s : State) (k n : Nat) : ∀ a, s.hostBytes k a n < 256 ^ n := by
  induction n with
  | zero => intro a; simp [State.hostBytes]
  | succ n ih =>
    intro a
    have := ih (a + 1)
    have := (s.hostByte k a).isLt
    simp only [State.hostBytes, Nat.pow_succ]
    omega

/-- The bytes of a host load, one by one. -/
theorem hostBytes_byte (s : State) (k n : Nat) : ∀ a i, i < n →
    BitVec.ofNat 8 (s.hostBytes k a n / 256 ^ i) = s.hostByte k (a + i) := by
  induction n with
  | zero => intro a i hi; omega
  | succ n ih =>
    intro a i hi
    have hl := (s.hostByte k a).isLt
    rcases i with _ | i
    · apply BitVec.eq_of_toNat_eq; simp [State.hostBytes]; omega
    · have e : ((s.hostByte k a).toNat + 256 * s.hostBytes k (a + 1) n) / 256 = s.hostBytes k (a + 1) n := by omega
      rw [State.hostBytes, Nat.pow_succ', ← Nat.div_div_eq_div_mul, e, ih _ _ (by omega)]
      congr 1; omega

/-- Where no SLIDE is updating a table, a host load reads memory. -/
theorem hostBytes_eq_memRead {s : State} (h : s.slidTable = none) (k n : Nat) : ∀ a, s.hostBytes k a n = memRead s.mem a n := by
  induction n with
  | zero => intro a; rfl
  | succ n ih => intro a; simp only [State.hostBytes, memRead, ih, State.hostByte, h]

/-- All that a host write to a register can do. -/
theorem regWrite_cases (s : State) (r : Reg) (v : Word) :
    s.regWrite r v = s ∨ s.regWrite r v = s.writeCtrl v ∨ s.regWrite r v = s.writeStatus v ∨
    (s.busy = true ∧ s.regWrite r v = s.dropWrite) ∨
    (s.busy = false ∧ (s.regWrite r v = s.issue v ∨ s.regWrite r v = { s with acc := v } ∨
      s.regWrite r v = { s with src := v } ∨ s.regWrite r v = { s with len := v } ∨
      s.regWrite r v = { s with tbl := v } ∨ s.regWrite r v = { s with count := v } ∨
      s.regWrite r v = { s with wsize := v })) := by
  cases r <;> simp only [State.regWrite, State.unlessBusy] <;> cases s.busy <;> simp

/-- All that one access of a bus master can do, where it answers a next state. -/
theorem busAccess_cases {s t : State} {x : Access} (h : busAccess s x = .next t) :
    (∃ r v, t = s.regWrite r v) ∨ t = s ∨ t = s.recordAccess ∨ (∃ v, t = { s with readData := v }) ∨
    (∃ a w, target s.cfg a w = .memory ∧ t = s.loadMem a w.bytes) ∨
    (∃ a w v, target s.cfg a w = .memory ∧ t = s.storeMem a w.bytes v) := by
  cases x with
  | load a w =>
    simp only [busAccess, busLoad] at h
    rcases ht : target s.cfg a w with off | _ | _ | _ | _ <;> rw [ht] at h <;>
      simp only [Host.Outcome.next.injEq, reduceCtorEq] at h
    · exact .inr (.inr (.inr (.inl ⟨_, h.symm⟩)))
    · exact .inr (.inr (.inl h.symm))
    · exact .inr (.inr (.inr (.inr (.inl ⟨a, w, ht, h.symm⟩))))
  | store a w v =>
    simp only [busAccess, busStore] at h
    rcases ht : target s.cfg a w with off | _ | _ | _ | _ <;> rw [ht] at h <;>
      simp only [Host.Outcome.next.injEq, reduceCtorEq] at h
    · unfold State.portWrite at h
      split at h
      · exact .inl ⟨_, _, h.symm⟩
      · exact .inr (.inl h.symm)
    · exact .inr (.inr (.inl h.symm))
    · exact .inr (.inr (.inr (.inr (.inr ⟨a, w, v, ht, h.symm⟩))))

theorem andThen_next {o : Host.Outcome State Fault Refusal} {f : State → Host.Outcome State Fault Refusal}
    {t : State} (h : andThen o f = .next t) : ∃ u, o = .next u ∧ f u = .next t := by
  cases o with
  | next u => exact ⟨u, rfl, h⟩
  | fault r => cases h
  | refused r => cases h

/-- A host step is at most one bus access, then a change of the host's own registers or position. -/
theorem hostTurn_cases {s t : State} (h : hostTurn s = .next t) :
    ∃ u, (u = s ∨ ∃ x, busAccess s x = .next u) ∧ t = { u with host := t.host } := by
  unfold hostTurn at h
  split at h
  · next op _ =>
    have hb : ∀ l, branchTo s l = .next t → t = { s with host := t.host } := by
      intro l hl
      unfold branchTo at hl
      split at hl
      · rw [← Host.Outcome.next.inj hl]; rfl
      · cases hl
    cases op <;> simp only [execHostOp, hostWr, hostRd, hostPoll, hostLd] at h
    case wr => obtain ⟨u, h1, h2⟩ := andThen_next h
               exact ⟨u, .inr ⟨.store _ _ _, h1⟩, by rw [← Host.Outcome.next.inj h2]; rfl⟩
    case wrReg => obtain ⟨u, h1, h2⟩ := andThen_next h
                  exact ⟨u, .inr ⟨.store _ _ _, h1⟩, by rw [← Host.Outcome.next.inj h2]; rfl⟩
    case rd => obtain ⟨u, h1, h2⟩ := andThen_next h
               exact ⟨u, .inr ⟨.load _ _, h1⟩, by rw [← Host.Outcome.next.inj h2]; rfl⟩
    case poll => obtain ⟨u, h1, h2⟩ := andThen_next h
                 exact ⟨u, .inr ⟨.load _ _, h1⟩, by rw [← Host.Outcome.next.inj h2]; split <;> rfl⟩
    case waitIrq => exact ⟨s, .inl rfl, by rw [← Host.Outcome.next.inj h]; split <;> rfl⟩
    case st => obtain ⟨u, h1, h2⟩ := andThen_next h
               exact ⟨u, .inr ⟨.store _ _ _, h1⟩, by rw [← Host.Outcome.next.inj h2]; rfl⟩
    case ld => obtain ⟨u, h1, h2⟩ := andThen_next h
               exact ⟨u, .inr ⟨.load _ _, h1⟩, by rw [← Host.Outcome.next.inj h2]; split <;> rfl⟩
    case li => exact ⟨s, .inl rfl, by rw [← Host.Outcome.next.inj h]; rfl⟩
    case addi => exact ⟨s, .inl rfl, by rw [← Host.Outcome.next.inj h]; rfl⟩
    case label => exact ⟨s, .inl rfl, by rw [← Host.Outcome.next.inj h]; rfl⟩
    case b => exact ⟨s, .inl rfl, hb _ h⟩
    case bnz =>
      split at h
      · exact ⟨s, .inl rfl, by rw [← Host.Outcome.next.inj h]; rfl⟩
      · exact ⟨s, .inl rfl, hb _ h⟩
  · exact ⟨s, .inl rfl, by rw [← Host.Outcome.next.inj h]⟩

/-- A host step keeps the host's registers in canonical form. -/
theorem hostTurn_regsWf {s t : State} (hr : mapWf s.host.regs = true) (h : hostTurn s = .next t) :
    mapWf t.host.regs = true := by
  have hbus : ∀ {x u}, busAccess s x = .next u → u.host = s.host := by
    intro x u hu
    obtain ⟨r, v, e⟩ | e | e | ⟨v, e⟩ | ⟨a, w, -, e⟩ | ⟨a, w, v, -, e⟩ := busAccess_cases hu <;> subst e
    · obtain e | e | e | ⟨-, e⟩ | ⟨-, e | e | e | e | e | e | e⟩ := regWrite_cases s r v <;> rw [e] <;> simp
    · rfl
    · rfl
    · rfl
    · rfl
    · simp only [State.storeMem]; split <;> rfl
  unfold hostTurn at h
  split at h
  · next op _ =>
    have hb : ∀ l, branchTo s l = .next t → mapWf t.host.regs = true := by
      intro l hl
      unfold branchTo at hl
      split at hl
      · rw [← Host.Outcome.next.inj hl]; exact hr
      · cases hl
    have hst : ∀ {a w v}, andThen (busStore s a w v) (fun t => .next t.advance) = .next t →
        mapWf t.host.regs = true := by
      intro a w v hl
      obtain ⟨u, h1, h2⟩ := andThen_next hl
      rw [← Host.Outcome.next.inj h2]
      simp only [State.advance_host, hbus (x := .store a w v) h1]; exact hr
    cases op <;> simp only [execHostOp, hostWr, hostRd, hostPoll, hostLd] at h
    case wr => exact hst h
    case wrReg => exact hst h
    case st => exact hst h
    case rd =>
      obtain ⟨u, h1, h2⟩ := andThen_next h
      rw [← Host.Outcome.next.inj h2]
      simp only [State.advance_host, State.setHostReg_host, hbus (x := .load _ _) h1]; exact writeAt_wf hr _ _
    case ld =>
      obtain ⟨u, h1, h2⟩ := andThen_next h
      rw [← Host.Outcome.next.inj h2]
      split
      · simp only [State.advance_host, hbus (x := .load _ _) h1]; exact hr
      · simp only [State.advance_host, State.setHostReg_host, hbus (x := .load _ _) h1]; exact writeAt_wf hr _ _
    case poll =>
      obtain ⟨u, h1, h2⟩ := andThen_next h
      rw [← Host.Outcome.next.inj h2]
      split
      · simp only [State.advance_host, hbus (x := .load _ _) h1]; exact hr
      · rw [hbus (x := .load _ _) h1]; exact hr
    case waitIrq => rw [← Host.Outcome.next.inj h]; split <;> exact hr
    case li => rw [← Host.Outcome.next.inj h]; exact writeAt_wf hr _ _
    case addi => rw [← Host.Outcome.next.inj h]; exact writeAt_wf hr _ _
    case label => rw [← Host.Outcome.next.inj h]; exact hr
    case b => exact hb _ h
    case bnz =>
      split at h
      · rw [← Host.Outcome.next.inj h]; exact hr
      · exact hb _ h
  · rw [← Host.Outcome.next.inj h]; exact hr

end Sys2Proof.Machine
end

