-- ==== Sys2Proof/Laws/Turns.lean ====
section
/-! SUPPORT. All that one step can do, and the wiring of the step: the latched command is the one that runs. -/
namespace Sys2Proof.Machine

/-- One step is one agent's turn: the engine's, the reset input's, or a host step, which is at most one bus access and
a change of the host's own registers or position. -/
theorem step_cases {s t : State} (h : step s = .next t) :
    (s.turn = .engine ∧ engineTurn s.popTurn = .next t) ∨
    (s.turn = .reset ∧ t = resetTurn s.popTurn) ∨
    ((s.turn = .host ∨ ∃ x, s.turn = .access x) ∧
      ∃ u, (u = s.popTurn ∨ ∃ x, busAccess s.popTurn x = .next u) ∧ t = { u with host := t.host }) := by
  unfold step at h
  rcases ht : s.turn with _ | x | _ | _ <;> rw [ht] at h <;> simp only [takeTurn] at h
  · exact .inr (.inr ⟨.inl rfl, hostTurn_cases h⟩)
  · exact .inr (.inr ⟨.inr ⟨x, rfl⟩, t, .inr ⟨x, h⟩, rfl⟩)
  · exact .inl ⟨rfl, h⟩
  · exact .inr (.inl ⟨rfl, (Host.Outcome.next.inj h).symm⟩)

/-- A host's turn, store by store: it makes the store that its operation names, or none; then it changes at most the
host's own registers and position. -/
theorem hostTurn_stores {s t : State} (h : hostTurn s = .next t) :
    (∃ a w v u, s.host.prog[s.host.pos]?.bind s.opStore = some (a, w, v) ∧ busStore s a w v = .next u ∧
      t = { u with host := t.host }) ∨
    (s.host.prog[s.host.pos]?.bind s.opStore = none ∧
      ∃ u, (u = s ∨ ∃ a w, busLoad s a w = .next u) ∧ t = { u with host := t.host }) := by
  unfold hostTurn at h
  split at h
  · next op hop =>
    rw [hop]
    have hb : ∀ l, branchTo s l = .next t → t = { s with host := t.host } := by
      intro l hl
      unfold branchTo at hl
      split at hl
      · rw [← Host.Outcome.next.inj hl]; rfl
      · cases hl
    have hst : ∀ {a w v}, andThen (busStore s a w v) (fun t => .next t.advance) = .next t →
        ∃ u, busStore s a w v = .next u ∧ t = { u with host := t.host } := by
      intro a w v hl
      obtain ⟨u, h1, h2⟩ := andThen_next hl
      exact ⟨u, h1, by rw [← Host.Outcome.next.inj h2]; rfl⟩
    cases op <;> simp only [execHostOp, hostWr, hostRd, hostPoll, hostLd] at h
    case wr => obtain ⟨u, h⟩ := hst h; exact .inl ⟨_, _, _, u, rfl, h⟩
    case wrReg => obtain ⟨u, h⟩ := hst h; exact .inl ⟨_, _, _, u, rfl, h⟩
    case st => obtain ⟨u, h⟩ := hst h; exact .inl ⟨_, _, _, u, rfl, h⟩
    all_goals refine .inr ⟨rfl, ?_⟩
    case rd => obtain ⟨u, h1, h2⟩ := andThen_next h
               exact ⟨u, .inr ⟨_, _, h1⟩, by rw [← Host.Outcome.next.inj h2]; rfl⟩
    case poll => obtain ⟨u, h1, h2⟩ := andThen_next h
                 exact ⟨u, .inr ⟨_, _, h1⟩, by rw [← Host.Outcome.next.inj h2]; split <;> rfl⟩
    case ld => obtain ⟨u, h1, h2⟩ := andThen_next h
               exact ⟨u, .inr ⟨_, _, h1⟩, by rw [← Host.Outcome.next.inj h2]; split <;> rfl⟩
    case waitIrq => exact ⟨s, .inl rfl, by rw [← Host.Outcome.next.inj h]; split <;> rfl⟩
    case li => exact ⟨s, .inl rfl, by rw [← Host.Outcome.next.inj h]; rfl⟩
    case addi => exact ⟨s, .inl rfl, by rw [← Host.Outcome.next.inj h]; rfl⟩
    case label => exact ⟨s, .inl rfl, by rw [← Host.Outcome.next.inj h]; rfl⟩
    case b => exact ⟨s, .inl rfl, hb _ h⟩
    case bnz =>
      split at h
      · exact ⟨s, .inl rfl, by rw [← Host.Outcome.next.inj h]; rfl⟩
      · exact ⟨s, .inl rfl, hb _ h⟩
  · next hop => rw [hop]; exact .inr ⟨rfl, s, .inl rfl, by rw [← Host.Outcome.next.inj h]⟩

/-- One step, with the store of a host's turn named: the engine's turn, a reset, the store `nextStore` gives, or a host
step that stores nothing. -/
theorem step_stores {s t : State} (h : step s = .next t) :
    (s.turn = .engine ∧ engineTurn s.popTurn = .next t) ∨
    (s.turn = .reset ∧ t = resetTurn s.popTurn) ∨
    ((s.turn = .host ∨ ∃ x, s.turn = .access x) ∧
      ((∃ a w v u, s.nextStore = some (a, w, v) ∧ busStore s.popTurn a w v = .next u ∧ t = { u with host := t.host }) ∨
       (s.nextStore = none ∧
        ∃ u, (u = s.popTurn ∨ ∃ a w, busLoad s.popTurn a w = .next u) ∧ t = { u with host := t.host }))) := by
  unfold step at h
  rcases ht : s.turn with _ | x | _ | _ <;> rw [ht] at h <;> simp only [takeTurn] at h
  · refine .inr (.inr ⟨.inl rfl, ?_⟩)
    have e : s.nextStore = s.popTurn.host.prog[s.popTurn.host.pos]?.bind s.popTurn.opStore := by
      simp only [State.nextStore, ht, State.popTurn_host]
      congr 1
    rw [e]; exact hostTurn_stores h
  · refine .inr (.inr ⟨.inr ⟨x, rfl⟩, ?_⟩)
    cases x with
    | store a w v => exact .inl ⟨a, w, v, t, by simp only [State.nextStore, ht], h, rfl⟩
    | load a w => exact .inr ⟨by simp only [State.nextStore, ht], t, .inr ⟨a, w, h⟩, rfl⟩
  · exact .inl ⟨rfl, h⟩
  · exact .inr (.inl ⟨rfl, (Host.Outcome.next.inj h).symm⟩)

/-- All that one store can do, where it answers a next state: at a register's address it writes the register; elsewhere
it does nothing, records HOST_ACCESS or stores to memory. -/
theorem busStore_cases {s t : State} {a : Nat} {w : Width} {v : Word} (h : busStore s a w v = .next t) :
    (∃ r, a = s.regAddr r ∧ w = .word ∧ t = s.regWrite r v) ∨
    ((∀ r, ¬ (a = s.regAddr r ∧ w = .word)) ∧
      (t = s ∨ t = s.recordAccess ∨ (target s.cfg a w = .memory ∧ t = s.storeMem a w.bytes v))) := by
  by_cases hr : ∃ r, a = s.regAddr r ∧ w = .word
  · obtain ⟨r, rfl, rfl⟩ := hr
    rw [busStore_reg] at h
    exact .inl ⟨r, rfl, rfl, (Host.Outcome.next.inj h).symm⟩
  refine .inr ⟨not_exists.1 hr, ?_⟩
  unfold busStore at h
  rcases ht : target s.cfg a w with off | _ | _ | _ | _ <;> rw [ht] at h <;>
    simp only [Host.Outcome.next.injEq, reduceCtorEq] at h
  · unfold State.portWrite at h
    split at h
    · next r hreg =>
      exfalso
      apply hr
      have hp : w = .word ∧ s.cfg.coreBase ≤ a ∧ off = a - s.cfg.coreBase := by
        unfold target at ht
        split at ht
        · split at ht
          · next hc => exact ⟨hc.1, hc.2.1, (Target.port.inj ht).symm⟩
          · cases ht
        · split at ht
          · cases ht
          · split at ht <;> cases ht
      have ho : off = r.offset := by
        unfold regAt at hreg
        split at hreg <;> cases hreg <;> rfl
      exact ⟨r, by unfold State.regAddr; omega, hp.1⟩
    · exact .inl h.symm
  · exact .inr (.inl h.symm)
  · exact .inr (.inr ⟨rfl, h.symm⟩)

/-- All that one load can do, where it answers a next state. -/
theorem busLoad_cases {s t : State} {a : Nat} {w : Width} (h : busLoad s a w = .next t) :
    t = s.recordAccess ∨ (∃ v, t = { s with readData := v }) ∨
    (target s.cfg a w = .memory ∧ t = s.loadMem a w.bytes) := by
  unfold busLoad at h
  rcases ht : target s.cfg a w with off | _ | _ | _ | _ <;> rw [ht] at h <;>
    simp only [Host.Outcome.next.injEq, reduceCtorEq] at h
  · exact .inr (.inl ⟨_, h.symm⟩)
  · exact .inl h.symm
  · exact .inr (.inr ⟨rfl, h.symm⟩)

/-- A store at a register's address writes that register. -/
theorem step_writes {s t : State} {r : Reg} {v : Word} (hw : s.writesNext r v) (h : step s = .next t) :
    (s.turn = .host ∨ ∃ x, s.turn = .access x) ∧ t = { s.popTurn.regWrite r v with host := t.host } := by
  unfold State.writesNext at hw
  obtain ⟨ht, -⟩ | ⟨ht, -⟩ | ⟨hm, ⟨a, w, x, u, e, hb, he⟩ | ⟨e, -⟩⟩ := step_stores h
  · simp [State.nextStore, ht] at hw
  · simp [State.nextStore, ht] at hw
  · rw [e] at hw
    simp only [Option.some.injEq, Prod.mk.injEq] at hw
    obtain ⟨rfl, rfl, rfl⟩ := hw
    have hb' : busStore s.popTurn (s.popTurn.regAddr r) .word x = .next u := hb
    rw [busStore_reg] at hb'
    exact ⟨hm, by rw [he, ← Host.Outcome.next.inj hb']⟩
  · rw [e] at hw; cases hw

/-- A step whose turn is the engine's, on a busy engine, runs the command that CMD holds. -/
theorem step_engine {s : State} {i : Instr} (ht : s.turn = .engine) (hb : s.busy = true)
    (hd : decode s.cmd = .ok i) : step s = exec i s.popTurn := by
  simp only [step, ht, takeTurn, engineTurn, State.popTurn_busy, State.popTurn_cmd, hb, hd, if_true]

/-- Only hostFaults of the state can differ between an issue and its latch. -/
theorem issue_hostFaults (s : State) (v : Word) :
    (s.issue v).hostFaults = if s.issueCovers v then { s.hostFaults with hostSideFx := true } else s.hostFaults := by
  unfold State.issue
  split <;> simp

theorem regWrite_cfg (s : State) (r : Reg) (v : Word) : (s.regWrite r v).cfg = s.cfg := by
  obtain h | h | h | ⟨-, h⟩ | ⟨-, h | h | h | h | h | h | h⟩ := regWrite_cases s r v <;> rw [h] <;> simp

theorem regWrite_mem (s : State) (r : Reg) (v : Word) : (s.regWrite r v).mem = s.mem := by
  obtain h | h | h | ⟨-, h⟩ | ⟨-, h | h | h | h | h | h | h⟩ := regWrite_cases s r v <;> rw [h] <;> simp

/-- No bus access changes the configuration. -/
theorem busAccess_cfg {s t : State} {x : Access} (h : busAccess s x = .next t) : t.cfg = s.cfg := by
  obtain ⟨r, v, h⟩ | h | h | ⟨v, h⟩ | ⟨a, w, -, h⟩ | ⟨a, w, v, -, h⟩ := busAccess_cases h <;> subst h
  · exact regWrite_cfg s r v
  · rfl
  · rfl
  · rfl
  · rfl
  · simp only [State.storeMem]; split <;> rfl

/-- A bus access keeps memory in canonical form. -/
theorem busAccess_memWf {s t : State} {x : Access} (hm : Memory.wf s.mem = true) (h : busAccess s x = .next t) :
    Memory.wf t.mem = true := by
  obtain ⟨r, v, h⟩ | h | h | ⟨v, h⟩ | ⟨a, w, -, h⟩ | ⟨a, w, v, ht, h⟩ := busAccess_cases h <;> rw [h]
  · rw [regWrite_mem]; exact hm
  · exact hm
  · exact hm
  · exact hm
  · exact hm
  · exact memWrite_wf hm (target_memory ht)

/-- The mixed memory of an abandoned or failed SLIDE is in canonical form. -/
theorem mixedMem_wf {s : State} {r : Region} (hm : Memory.wf s.mem = true) (h : s.accessRange .slide = some r) :
    Memory.wf s.mixedMem = true := mixSlide_wf hm (accessRange_slide h).2.2.1

/-- What a host may read early (20_memory.md R74) is what the completion of the SLIDE leaves. -/
theorem engineTurn_endByte {s t : State} {r : Region} {a : Nat} (hm : Memory.wf s.mem = true)
    (hs : s.slidTable = some r) (ha : r.holds a = true) (h : engineTurn s = .next t) (hb : t.busy = false) :
    readByte t.mem a = s.endByte a := by
  obtain ⟨hbusy, hd, hr⟩ := slidTable_some hs
  obtain ⟨rfl, he, hf, -⟩ := accessRange_slide hr
  have ha' := Region.holds_iff.1 ha
  have hd' : decode s.cmd = .ok .slide := by
    unfold decode? at hd
    split at hd
    · next i hi => rw [hi, Option.some.inj hd]
    · cases hd
  have hx : execSlide s = .next t := by
    simpa only [engineTurn, hbusy, hd', if_true, exec] using h
  have hodd : s.tblOdd ≠ true := fun ho => by have := State.tblOdd_iff.1 ho; omega
  have hfit : s.tableFits = true := State.tableFits_iff.2 hf
  obtain k | k | k | k | ⟨e, k⟩ | k := execSlide_cases hx
  · exact absurd k.1 hodd
  · rw [hfit] at k; cases k.2.1
  · exact absurd k.2.2.1 (accessRange_slide hr).2.2.2
  · rw [Host.Outcome.next.inj k.2.2.2.2, State.endByte, k.2.2.2.1]
    exact (slidByte_eq hm hf ha'.1 ha'.2).symm
  · rw [Host.Outcome.next.inj k.2.2.2.2, State.endByte, k.2.2.2.1]
    exact (readByte_mixSlide hm hf a).trans (if_pos ha')
  · rw [Host.Outcome.next.inj k.2.2.2.2, hbusy] at hb; cases hb

/-- The engine keeps memory in canonical form. -/
theorem engineTurn_memWf {s t : State} (hm : Memory.wf s.mem = true) (h : engineTurn s = .next t) :
    Memory.wf t.mem = true := by
  obtain h | ⟨-, h | ⟨c, a, -, h⟩ | ⟨h, -⟩ | ⟨e, h, -⟩ | ⟨-, hr, h | ⟨e, h⟩⟩⟩ := engineTurn_cases h <;> rw [h]
  · exact hm
  · exact hm
  · exact hm
  · exact hm
  · exact hm
  · exact slideFrom_wf hm (accessRange_slide hr).2.2.1
  · exact mixedMem_wf hm hr

end Sys2Proof.Machine
end

