-- ==== Sys2Proof/Tests/Slice0.lean ====
section
/-! SUPPORT. Tests on fixed values, whose expected results are the spec's (95_test_vectors.md, the examples of the
rules), and, for each statement with hypotheses, a witness that meets them. -/
namespace Sys2Proof.Tests
open Sys2Proof Sys2Proof.Machine

/-! ## Helpers -/

/-- The outcome is a next state with the property. -/
def nextAnd (o : Host.Outcome State Fault Refusal) (p : State → Bool) : Bool :=
  match o with
  | .next t => p t
  | .fault _ => false
  | .refused _ => false

/-- After reset, with one register access of another bus master to come. -/
def writing (s : State) (off : Nat) (v : Word) : State :=
  { s with schedule := [.access (.store (s.cfg.coreBase + off) .word v)] }

/-- A busy engine about to run the word. -/
def running (s : State) (v : Word) : State := { s.latch v with schedule := [.engine] }

/-- "Wiki" at 0x1000 (program P2), ACC = 1. -/
def wiki : State :=
  { State.reset with
    mem := [(0x1000, 0x57#8), (0x1001, 0x69#8), (0x1002, 0x6B#8), (0x1003, 0x69#8)], src := 0x1000#32, len := 4#32 }

/-- The table [100, 50, 32800, 0] at 0x2000 (S8). -/
def table : State :=
  { State.reset with
    mem := [(0x2000, 0x64#8), (0x2002, 0x32#8), (0x2004, 0x20#8), (0x2005, 0x80#8)]
    tbl := 0x2000#32, count := 4#32, wsize := 100#32 }

/-- E13: BusErr exactly for 0x1025 to 0x1027. -/
def busAdler : State :=
  { State.reset with
    cfg := { Config.reference with busErr := [{ base := 0x1025, size := 3 }] }, src := 0x1000#32, len := 0x40#32 }

/-- E14: BusErr exactly for 0x3013. -/
def busSlide : State :=
  { State.reset with
    cfg := { Config.reference with busErr := [{ base := 0x3013, size := 1 }] }, tbl := 0x3000#32, count := 16#32 }

/-- Byte 0 answers with an error, byte 8 of the same beat is never answered. -/
def errorFirst : State :=
  { State.reset with
    cfg := { Config.reference with busErr := [{ base := 0, size := 1 }], unanswered := [{ base := 8, size := 1 }] }
    len := 16#32 }

/-- The first entry has a byte with BusErr and one never answered; a later entry of the head is never answered. -/
def errorEntry : State :=
  { State.reset with
    cfg := { Config.reference with
      busErr := [{ base := 0x1003, size := 1 }]
      unanswered := [{ base := 0x1002, size := 1 }, { base := 0x1006, size := 1 }] }
    tbl := 0x1002#32, count := 3#32 }

/-- Byte 0x1002 is never answered; the next byte would answer with an error. -/
def stuck : State :=
  { State.reset with
    cfg := { Config.reference with
      unanswered := [{ base := 0x1002, size := 1 }], busErr := [{ base := 0x1003, size := 1 }] }
    src := 0x1000#32, len := 4#32 }

/-- DONE, ERR and ERRCODE = RANGE (STATUS = 0x36), and OVR where asked. -/
def rangeStatus (o : Bool) : State := { State.reset with done := true, err := true, errcode := .range, ovr := o }

/-! ## Decoding: the words written out from the fields of R90 and R93 -/

theorem test_decode_nop : decode (0x000000#24 ++ 0x00#8 : BitVec 32) = .ok .nop := by decide
theorem test_decode_adlerUpd : decode (0x000000#24 ++ 0x01#8 : BitVec 32) = .ok .adlerUpd := by decide
theorem test_decode_slide : decode (0x000000#24 ++ 0x02#8 : BitVec 32) = .ok .slide := by decide
theorem test_decode_reserved_opcode : decode (0x000000#24 ++ 0x03#8 : BitVec 32) = .error .reservedOpcode := by decide
theorem test_decode_nonzero_rsv : decode 0x00000101#32 = .error .nonzeroRsv := by decide
theorem test_decode_table_words : decodeTableWord 32 0 = some .nop ∧ decodeTableWord 32 1 = some .adlerUpd ∧
    decodeTableWord 32 2 = some .slide ∧ decodeTableWord 32 3 = none := by decide

/-! ## Well-formedness: what each check refuses -/

theorem test_wf_refuses_sbBeats_0 : Config.legal { Config.reference with sbBeats := 0 } = false := by decide
theorem test_wf_refuses_sbBeats_664 : Config.legal { Config.reference with sbBeats := 664 } = false := by decide
theorem test_wf_accepts_reference : Config.legal Config.reference = true := by decide
theorem test_wf_refuses_undefined_label : programWf [.b 1] = false := by decide
theorem test_wf_refuses_undefined_bnz : programWf [.label 0, .bnz 2 1] = false := by decide
theorem test_wf_refuses_label_twice : programWf [.label 0, .label 0] = false := by decide
theorem test_wf_refuses_store_past_top : programWf [.st .word 0xFFFFFFFE#32 0] = false := by decide
theorem test_wf_refuses_load_past_top : programWf [.ld .half 0xFFFFFFFF#32 1] = false := by decide
theorem test_wf_accepts_a_loop : programWf [.li 2 3, .label 0, .addi 2 2 0xFFFFFFFF#32, .bnz 2 0] = true := by decide

/-! ## Commands -/

/-- E15: NOP with STATUS = 0x36 before its issue. -/
theorem test_nop_clears_error : nextAnd (step (State.withFetchWord (rangeStatus false) 32 0))
    (fun t => t.statusWord == 0x00000002#32) = true := by decide

/-- A5: "Wiki" from seed 1. -/
theorem test_adlerUpd_wiki : nextAnd (step (wiki.withFetchWord 32 1))
    (fun t => t.acc == 0x03DA0195#32 && t.statusWord == 0x00000002#32 && t.cmd == 1#32) = true := by decide

/-- E13: a bus error leaves ACC. -/
theorem test_adlerUpd_bus : nextAnd (step (busAdler.withFetchWord 32 1))
    (fun t => t.acc == 1#32 && t.statusWord == 0x00000046#32) = true := by decide

/-- R69, R132: the first failing access ends the command in BUS, whatever W is. -/
theorem test_adlerUpd_error_first : nextAnd (exec .adlerUpd errorFirst) (fun t => t.errcode == .bus) = true ∧
    nextAnd (exec .adlerUpd { errorFirst with cfg := { errorFirst.cfg with vecBytes := .w8 } })
      (fun t => t.errcode == .bus) = true := by decide

/-- R173, R174: head entries are accessed one at a time, so the first one's error ends the command. -/
theorem test_slide_error_entry : nextAnd (exec .slide errorEntry) (fun t => t.errcode == .bus) = true := by decide

/-- S8: [100, 50, 32800, 0] slid by 100 is [0, 0, 32700, 0]. -/
theorem test_slide_scenario : nextAnd (step (table.withFetchWord 32 2))
    (fun t => t.mem == [(0x2004, 0xBC#8), (0x2005, 0x7F#8)] && t.statusWord == 0x00000002#32) = true := by decide

/-- E5: ALIGN beats RANGE. -/
theorem test_slide_align_first :
    nextAnd (exec .slide { State.reset with tbl := 0xFFFFFFFF#32, count := 0xFFFFFFFF#32 })
      (fun t => t.statusWord == 0x00000026#32 && t.erraddr == 0xFFFFFFFF#32) = true := by decide

/-- E2: an illegal word. -/
theorem test_illegal_word : nextAnd (step (State.reset.withFetchWord 32 0x101))
    (fun t => t.statusWord == 0x00000016#32 && t.cmd == 0x00000101#32 && t.erraddr == 0#32) = true := by decide

/-! ## Functions: vectors V-A, V-M, V-S and traces V-D -/

theorem test_adler_unreduced_seed : adler 0xFFFFFFFF#32 [0x00#8] = 0x001C000E#32 := by decide
theorem test_adler_length_0 : adler 0xFFFFFFFF#32 [] = 0xFFFFFFFF#32 := by decide
theorem test_chop_and_modred : chop 0xFFFFFFFF#32 = 1048560#32 ∧ modred 65521#32 = 0#32 ∧
    modred 0xFFF0FFF0#32 = 65505#32 ∧ modadd 65520#32 65520#32 = 65519#32 := by decide
theorem test_slide1_boundary : slide1 0x0100#16 0xFF#32 = 1#16 ∧ slide1 0x00FF#16 0xFF#32 = 0#16 ∧
    slide1 0xFFFF#16 0x10000#32 = 0#16 ∧ slide1 0xFFFF#16 0#32 = 0xFFFF#16 := by decide

/-- D1: W = 8, SRC = 0x1007, "Wikipedia". -/
theorem test_frp_trace_d1 : frp .w8 963 1#32 0x1007
    [0x57#8, 0x69#8, 0x6B#8, 0x69#8, 0x70#8, 0x65#8, 0x64#8, 0x69#8, 0x61#8] = 0x11E60398#32 := by decide

/-- D3: W = 8, SB_BEATS = 2, 24 bytes 0xFF: a super-block boundary. -/
theorem test_frp_trace_d3 : frp .w8 2 1#32 0x1000 (List.replicate 24 0xFF#8) = 0x2AFB17E9#32 := by decide

/-- V-S partition example: TBL = 0x3006, COUNT = 17, W = 16: head 5, one beat. -/
theorem test_scu_partition : headEntries .w16 0x3006 17 = 5 ∧ entryBeats .w16 0x3006 17 = 1 := by decide

/-! ## Registers and the host: vectors V-R -/

/-- R-1, CAP and ID. -/
theorem test_reset_id_cap : State.reset.portRead 0x000 = 0xAD320001#32 ∧
    State.reset.portRead 0x004 = 0x02970014#32 := by decide

/-- R-5: STATUS = 0x3E, write 4. -/
theorem test_status_w1c : nextAnd (step (writing (rangeStatus true) 0x00C 4#32))
    (fun t => t.statusWord == 0x0000000A#32) = true := by decide

/-- R-12: a write of SRC while BUSY. -/
theorem test_busy_drops : nextAnd (step (writing (State.reset.latch 0) 0x018 5#32))
    (fun t => t.src == 0#32 && t.statusWord == 0x00000009#32) = true := by decide

/-- R-10: DONE on an error completion raises IRQ through IE_DONE. -/
theorem test_irq_done : ({ rangeStatus false with ieDone := true }).irq = true := by decide

/-- R44: a byte access of the window. -/
theorem test_byte_access : nextAnd (busStore State.reset (State.reset.cfg.coreBase + 0x014) .byte 5#32)
    (fun t => t.hostFaults.hostAccess && t.acc == 1#32) = true := by decide

/-- R99: a host program's operation. -/
theorem test_host_addi : nextAnd (execHostOp (.addi 1 1 0xFFFFFFFF#32) (State.reset.setHostReg 1 8#32))
    (fun t => t.hostReg 1 == 7#32 && t.host.pos == 1) = true := by decide

/-! ## Witnesses: for each statement with hypotheses, what meets them -/

/-- No access of the reference platform fails. -/
theorem quiet_reference (a n : Nat) : Quiet Config.reference a n := fun _ _ _ => ⟨rfl, rfl⟩

theorem firstError_adler : FirstError busAdler.cfg 0x1000 0x40 1 0x1025 := by
  refine ⟨by decide, by decide, fun x _ h => ?_, fun x _ _ h => ?_⟩
  · simp [busAdler, inRegions, Region.holds]; omega
  · simp [busAdler, Config.reference, inRegions] at h

/-- With an unanswered byte in the same beat. -/
theorem firstError_errorFirst : FirstError errorFirst.cfg 0 16 1 0 :=
  ⟨by decide, by decide, fun _ _ h => absurd h (Nat.not_lt_zero _), fun _ _ _ _ => Nat.zero_le _⟩

theorem firstError_slide : FirstError busSlide.cfg 0x3000 32 2 0x3013 := by
  refine ⟨by decide, by decide, fun x _ h => ?_, fun x _ _ h => ?_⟩
  · simp [busSlide, inRegions, Region.holds]; omega
  · simp [busSlide, Config.reference, inRegions] at h

/-- With an unanswered byte in the same entry. -/
theorem firstError_errorEntry : FirstError errorEntry.cfg 0x1002 6 2 0x1003 := by
  refine ⟨by decide, by decide, fun x _ h => ?_, fun x h _ _ => ?_⟩
  · simp [errorEntry, inRegions, Region.holds]; omega
  · omega

theorem plain_reference : PlainMemory Config.reference 0xFFFFFFFC 4 := by
  refine ⟨by decide, ?_, fun _ _ _ => rfl⟩
  rintro ⟨x, h1, h2, -⟩
  simp [Config.reference] at h2; omega

theorem witness_DecodeIsTheWordTable : State.reset.noHostFault ∧ State.reset.busy = false := by decide
theorem witness_DecodeEncodeAgree : Instr.slide.wf = true ∧ decode? 2#32 = some .slide ∧ (2#32 : Word) = encode .slide := by decide
theorem witness_ResetLeavesTheResetValues : wiki.busy = false ∧ (wiki.latch 1).busy = true ∧
    decode? (wiki.latch 1).cmd ≠ some .slide := by decide
theorem witness_ResetWhileBusyAbandons : (table.latch 2).noHostFault ∧ Memory.wf (table.latch 2).mem = true ∧
    (table.latch 2).busy = true ∧ decode? (table.latch 2).cmd = some .slide ∧
    (table.latch 2).accessRange .slide = some { base := 0x2000, size := 8 } ∧
    decode? (wiki.latch 1).cmd = some .adlerUpd := by decide
theorem reset_inv : State.reset.Inv := ⟨by decide, by decide, by decide, by decide, by decide⟩
theorem witness_StepKeepsTheInvariant : State.reset.Inv ∧ nextAnd (step State.reset) (fun _ => true) = true :=
  ⟨reset_inv, by decide⟩
theorem witness_StepRunsTheLatchedCommand : (running wiki 1).turn = .engine ∧ (running wiki 1).busy = true ∧
    decode? (running wiki 1).cmd = some .adlerUpd ∧
    ({ State.reset with schedule := [.engine] }).turn = .engine := by decide
theorem witness_NopCompletes : (rangeStatus true).noHostFault ∧ (rangeStatus true).busy = false := by decide
theorem witness_IllegalWordCompletesWithError : State.reset.noHostFault ∧ (0x00000002#32 : Word) < 0x00000003#32 ∧
    State.reset.busy = false ∧ (State.reset.latch 0).busy = true := by decide
theorem witness_AdlerUpdResult_range : ({ State.reset with src := 0xFFFFFFFF#32, len := 2#32 }).noHostFault ∧
    2 ^ 32 < ({ State.reset with src := 0xFFFFFFFF#32, len := 2#32 }).src.toNat + 2 := by decide
theorem witness_AdlerUpdResult_zero : ({ State.reset with src := 0xFFFFFFFF#32 }).len = 0#32 := by decide
theorem witness_AdlerUpdResult_ok : (0xFFFFFFFF#32 : Word).toNat + (1#32 : Word).toNat ≤ 2 ^ 32 ∧
    Quiet ({ State.reset with src := 0xFFFFFFFF#32, len := 1#32 }).cfg 0xFFFFFFFF 1 :=
  ⟨by decide, quiet_reference _ _⟩
theorem witness_AdlerUpdResult_bus : busAdler.noHostFault ∧ busAdler.src.toNat + busAdler.len.toNat ≤ 2 ^ 32 ∧
    FirstError busAdler.cfg busAdler.src.toNat busAdler.len.toNat (accessBytes .adlerUpd) 0x1025 :=
  ⟨by decide, by decide, firstError_adler⟩
theorem witness_SlideResult_align : (0x3001#32 : Word).toNat % 2 = 1 ∧ Memory.wf State.reset.mem = true ∧
    State.reset.noHostFault := by decide
theorem witness_SlideResult_range : (0xFFFFFFFE#32 : Word).toNat % 2 = 0 ∧
    2 ^ 32 < (0xFFFFFFFE#32 : Word).toNat + 2 * (2#32 : Word).toNat := by decide
theorem witness_SlideResult_zero : State.reset.tbl.toNat % 2 = 0 ∧ State.reset.count = 0#32 := by decide
theorem witness_SlideResult_ok : table.noHostFault ∧ Memory.wf table.mem = true ∧ table.tbl.toNat % 2 = 0 ∧
    table.tbl.toNat + 2 * table.count.toNat ≤ 2 ^ 32 ∧ Quiet table.cfg table.tbl.toNat (2 * table.count.toNat) :=
  ⟨by decide, by decide, by decide, by decide, quiet_reference _ _⟩
theorem witness_SlideResult_top : (0xFFFFFFFE#32 : Word).toNat % 2 = 0 ∧
    (0xFFFFFFFE#32 : Word).toNat + 2 * (1#32 : Word).toNat ≤ 2 ^ 32 := by decide
theorem witness_SlideResult_bus : busSlide.noHostFault ∧ Memory.wf busSlide.mem = true ∧
    busSlide.tbl.toNat % 2 = 0 ∧ busSlide.tbl.toNat + 2 * busSlide.count.toNat ≤ 2 ^ 32 ∧
    FirstError busSlide.cfg busSlide.tbl.toNat (2 * busSlide.count.toNat) (accessBytes .slide) 0x3013 :=
  ⟨by decide, by decide, by decide, by decide, firstError_slide⟩
theorem witness_UnansweredAccessLeavesBusy : (running stuck 1).noHostFault ∧ (running stuck 1).busy = true ∧
    decode? (running stuck 1).cmd = some .adlerUpd ∧
    (running stuck 1).accessRange .adlerUpd = some { base := 0x1000, size := 4 } ∧
    Region.holds { base := 0x1000, size := 4 } 0x1002 = true ∧
    inRegions (running stuck 1).cfg.unanswered 0x1002 = true ∧
    inRegions (running stuck 1).cfg.busErr 0x1003 = true ∧
    (∀ x, Region.holds { base := 0x1000, size := 4 } x = true → inRegions (running stuck 1).cfg.busErr x = true →
      0x1002 / accessBytes .adlerUpd < x / accessBytes .adlerUpd) := by
  refine ⟨by decide, by decide, by decide, by decide, by decide, by decide, by decide, fun x _ h => ?_⟩
  simp only [running, stuck, State.latch, inRegions, List.any_cons, List.any_nil, Bool.or_false, Region.holds_iff] at h
  simp only [accessBytes, Nat.div_one]; omega
theorem witness_AnsweredCommandCompletes : (running wiki 1).noHostFault ∧ (running wiki 1).busy = true ∧
    (running wiki 1).turn = .engine ∧ ∀ x, inRegions (running wiki 1).cfg.unanswered x = false :=
  ⟨by decide, by decide, by decide, fun _ => rfl⟩
theorem witness_EngineTurnEndsTheCommand : (running wiki 1).noHostFault ∧ (running wiki 1).busy = true ∧
    nextAnd (engineTurn (running wiki 1)) (fun t => t.done) = true := by decide
theorem witness_ErrorsArePrecise : (running table 3).noHostFault ∧ (running table 3).busy = true ∧
    (running table 3).err = false ∧ nextAnd (engineTurn (running table 3)) (fun t => t.err) = true := by decide
theorem witness_IssueLatchesTheWord : State.reset.noHostFault ∧ State.reset.busy = false ∧
    (State.reset.latch 1).noHostFault ∧ (State.reset.latch 1).busy = true := by decide
theorem witness_SideEffectRangeIsRecorded : wiki.noHostFault ∧ wiki.busy = false ∧ decode? 1#32 = some .adlerUpd ∧
    wiki.accessRange .adlerUpd = some { base := 0x1000, size := 4 } := by decide
theorem witness_register_port : (rangeStatus true).noHostFault ∧ 0x030 ≤ 0xFFC ∧ 0xFFC % 4 = 0 := by decide
theorem witness_BusyDropsWrites : (wiki.latch 1).noHostFault ∧ (wiki.latch 1).busy = true := by decide
theorem witness_IdleOperandWritesLand : wiki.noHostFault ∧ wiki.busy = false := by decide
theorem witness_ControlRegister : (rangeStatus true).noHostFault ∧ (7#32 : Word).getLsbD 0 = true ∧
    (7#32 : Word).getLsbD 1 = true ∧ (7#32 : Word).getLsbD 2 = true ∧ (rangeStatus true).done = true ∧
    (rangeStatus true).err = true ∧ (rangeStatus true).ovr = true := by decide
theorem witness_NonWordAccessIsRecorded : InWindow Config.reference (0x100000000 - 2) Width.word.bytes ∧
    ¬ (Width.word = .word ∧ Config.reference.coreBase ≤ 0x100000000 - 2 ∧
      (0x100000000 - 2 - Config.reference.coreBase) % 4 = 0) :=
  ⟨⟨0x100000000, by decide, by decide, by decide⟩, by decide⟩
theorem witness_CapabilityFields : State.reset.cfg.legal = true ∧ nextAnd (step State.reset) (fun _ => true) = true := by
  decide
theorem rangeStatus_inv : (rangeStatus true).Inv := ⟨by decide, by decide, by decide, by decide, by decide⟩
theorem witness_StatusLayout : (State.reset.Inv ∧ State.reset.err = false) ∧
    ((rangeStatus true).Inv ∧ (rangeStatus true).err = true) :=
  ⟨⟨reset_inv, by decide⟩, rangeStatus_inv, by decide⟩
theorem witness_ConfigurationIsFixed : nextAnd (step (writing State.reset 0x004 5#32)) (fun _ => true) = true := by
  decide

/-- A reset turn. -/
theorem witness_step_reset : ({ rangeStatus true with schedule := [.reset] }).turn = .reset ∧
    nextAnd (step { rangeStatus true with schedule := [.reset] }) (fun t => t.hostFaults == HostFaults.empty) = true := by
  decide

/-- An issue: BUSY set, DONE, ERR cleared. -/
theorem witness_step_issue : (rangeStatus true).busy = false ∧ (rangeStatus true).done = true ∧
    (rangeStatus true).err = true ∧ nextAnd (step (writing (rangeStatus true) 0x010 1#32))
      (fun t => t.hostFaults == HostFaults.empty && t.busy && !t.done && !t.err && t.cmd != (rangeStatus true).cmd)
      = true := by decide

/-- A completion: BUSY cleared, DONE set, ACC written. -/
theorem witness_step_completion : (running wiki 1).turn = .engine ∧ (running wiki 1).busy = true ∧
    (running wiki 1).done = false ∧ nextAnd (step (running wiki 1))
      (fun t => t.hostFaults == HostFaults.empty && !t.busy && t.done && t.acc != (running wiki 1).acc) = true := by
  decide

/-- An error completion: ERR set, ERRADDR written. -/
theorem witness_step_error : (running { table with tbl := 0x2001#32 } 2).err = false ∧
    nextAnd (step (running { table with tbl := 0x2001#32 } 2))
      (fun t => t.hostFaults == HostFaults.empty && t.err && t.erraddr != 0#32) = true := by decide

/-- The stores that the issue, the acknowledgement and the dropped write of these witnesses make, and a program's. -/
theorem witness_step_stores :
    (writing (rangeStatus true) 0x010 1#32).nextStore = some ((rangeStatus true).regAddr .cmd, .word, 1#32) ∧
    (writing (rangeStatus true) 0x00C 0xE#32).nextStore = some ((rangeStatus true).regAddr .status, .word, 0xE#32) ∧
    (writing (State.reset.latch 0) 0x018 5#32).nextStore = some (State.reset.regAddr .src, .word, 5#32) ∧
    ({ State.reset with host := { State.reset.host with prog := [HostOp.issue .slide] } }).nextStore
      = some (State.reset.regAddr .cmd, .word, 2#32) := by decide

/-- A write to STATUS clears DONE, ERR and OVR. -/
theorem witness_step_w1c : (rangeStatus true).ovr = true ∧ nextAnd (step (writing (rangeStatus true) 0x00C 0xE#32))
    (fun t => t.hostFaults == HostFaults.empty && !t.done && !t.err && !t.ovr) = true := by decide

/-- A dropped write sets OVR. -/
theorem witness_step_overrun : (State.reset.latch 0).ovr = false ∧
    nextAnd (step (writing (State.reset.latch 0) 0x018 5#32))
      (fun t => t.hostFaults == HostFaults.empty && t.ovr) = true := by decide

/-- A SLIDE that changes memory. -/
theorem witness_MemoryChangesOnlyWhereWritten : Memory.wf (running table 2).mem = true ∧
    nextAnd (step (running table 2)) (fun t => t.hostFaults == HostFaults.empty &&
      readByte t.mem 0x2000 != readByte (running table 2).mem 0x2000) = true := by decide

/-- A recorded host fault before a step. -/
theorem witness_HostFaultsNeverShrink : State.reset.recordRace.recordAccess.recordSideFx.hostFaults.hostRace = true ∧
    State.reset.recordRace.recordAccess.recordSideFx.hostFaults.hostAccess = true ∧
    State.reset.recordRace.recordAccess.recordSideFx.hostFaults.hostSideFx = true ∧
    nextAnd (step State.reset.recordRace.recordAccess.recordSideFx) (fun _ => true) = true := by decide

/-- A host store beside the table of a busy SLIDE. -/
def besideTable : State := { table.latch 2 with schedule := [.access (.store 0x2008 .word 7#32)] }

theorem witness_OwnedBytesHoldUntilCompletion : Memory.wf besideTable.mem = true ∧ HostMoves besideTable ∧
    besideTable.busy = true ∧ besideTable.ownedRange = some { base := 0x2000, size := 8 } ∧
    nextAnd (step besideTable) (fun t => t.hostFaults == HostFaults.empty) = true :=
  ⟨by decide, .inr ⟨_, rfl⟩, by decide, by decide, by decide⟩

theorem witness_EntriesAreLittleEndian : Memory.wf table.mem = true ∧ 0xFFFFFFFE + 2 ≤ 2 ^ 32 ∧ table.noHostFault ∧
    table.busy = false ∧ PlainMemory table.cfg 0xFFFFFFFC 4 := ⟨by decide, by decide, by decide, by decide, plain_reference⟩
/-- A busy SLIDE whose table a host may load, and one that will end in a BUS error. -/
theorem witness_HostLoadWhileBusy : (table.latch 2).noHostFault ∧ Memory.wf (table.latch 2).mem = true ∧
    (table.latch 2).slidTable = some { base := 0x2000, size := 8 } ∧
    PlainMemory (table.latch 2).cfg 0xFFFFFFFC Width.word.bytes ∧
    nextAnd (engineTurn (busSlide.latch 2)) (fun u => !u.busy && u.errcode == .bus) = true :=
  ⟨by decide, by decide, by decide, plain_reference, by decide⟩
theorem witness_HostStoreAndRace : besideTable.noHostFault ∧ Memory.wf besideTable.mem = true ∧
    PlainMemory besideTable.cfg 0xFFFFFFFC Width.word.bytes := ⟨by decide, by decide, plain_reference⟩
theorem witness_HostStoreAndRace_free : ¬ Owned State.reset 0xFFFFFFFC 4 := fun h => nomatch h.1
theorem witness_HostStoreAndRace_owned : Owned (table.latch 2) 0x2007 1 :=
  ⟨by decide, 0x2007, by decide, .inr (by decide)⟩
theorem witness_HostRegisterOperations : wiki.noHostFault ∧ mapWf wiki.host.regs = true := by decide
theorem witness_AdlerClosedForm : ([0x61#8] : List Byte) ≠ [] := by decide
theorem witness_ChecksumConcatenates : wiki.noHostFault ∧
    wiki.src.toNat + (3#32 : Word).toNat + (1#32 : Word).toNat ≤ 2 ^ 32 ∧
    (3#32 : Word).toNat + (1#32 : Word).toNat < 2 ^ 32 ∧ Quiet wiki.cfg wiki.src.toNat 4 :=
  ⟨by decide, by decide, by decide, quiet_reference _ _⟩
theorem witness_ChecksumHalvesReduced : wiki.noHostFault ∧ wiki.len ≠ 0#32 ∧
    wiki.src.toNat + wiki.len.toNat ≤ 2 ^ 32 ∧ Quiet wiki.cfg wiki.src.toNat wiki.len.toNat ∧
    State.reset.len = 0#32 := ⟨by decide, by decide, by decide, quiet_reference _ _, by decide⟩
theorem witness_BeatWidthIsInvisible : busAdler.noHostFault ∧ busAdler.cfg.busErr ≠ [] := by decide
theorem witness_below_base : (65520#32 : Word).toNat < 65521 := by decide
theorem witness_TreeAddsModulo : [1#32, 2#32].length = VecBytes.w8.lanes := by decide
theorem witness_PartitionCoversTheRange : 0 < beatCount .w8 0x1007 9 := by decide
theorem witness_PipelineComputesAdler : ([0x61#8] : List Byte) ≠ [] ∧ 1 ≤ 963 ∧ 963 ≤ VecBytes.w8.kmax := by decide
theorem witness_LanePathsEqualSlide1 : (0xFFFF#32 : Word).toNat < 65536 ∧ 65536 ≤ (0x10000#32 : Word).toNat := by decide
theorem witness_ClampUnitComputesSlide : Memory.wf table.mem = true ∧ 0x2000 + 2 * 4 ≤ 2 ^ 32 := by decide

end Sys2Proof.Tests
end

/-! The proofs of the family 00_scope: the configuration is fixed (R16), and the beat width changes no result but
ERRADDR after a BUS error (R6). -/
section
namespace Sys2Proof.Machine

/-! ## No step changes the configuration (00_scope.md R16) -/

theorem engineTurn_cfg {s t : State} (h : engineTurn s = .next t) : t.cfg = s.cfg := by
  obtain rfl | ⟨-, rfl | ⟨c, a, -, rfl⟩ | ⟨rfl, -⟩ | ⟨e, rfl, -⟩ | ⟨-, -, rfl | ⟨e, rfl⟩⟩⟩ := engineTurn_cases h <;> rfl

theorem resetTurn_cfg (s : State) : (resetTurn s).cfg = s.cfg := by
  unfold resetTurn
  split <;> rfl

theorem step_cfg {s t : State} (h : step s = .next t) : t.cfg = s.cfg := by
  obtain ⟨-, he⟩ | ⟨-, hr⟩ | ⟨-, u, hu, ht⟩ := step_cases h
  · exact (engineTurn_cfg he).trans s.popTurn_cfg
  · rw [hr, resetTurn_cfg, State.popTurn_cfg]
  · have huCfg : u.cfg = s.cfg := by
      obtain rfl | ⟨x, hx⟩ := hu
      · rfl
      · exact (busAccess_cfg hx).trans s.popTurn_cfg
    rw [ht]
    exact huCfg

/-- ID reads as a constant (10_state.md R24). -/
theorem portRead_id (s : State) : s.portRead 0x000 = idWord := rfl

/-- CAP is read from the configuration (10_state.md R25). -/
theorem portRead_cap (s : State) : s.portRead 0x004 = capWord s.cfg := rfl

/-- Settles O29: the configuration is kept by every agent's turn, and ID and CAP are read from nothing else. -/
theorem configurationIsFixed : Obligations.ConfigurationIsFixed := by
  intro s t h
  have hcfg := step_cfg h
  exact ⟨hcfg, by rw [portRead_id, portRead_id], by rw [portRead_cap, portRead_cap, hcfg]⟩

/-! ## The beat width is invisible (00_scope.md R6, 93_implementation_defined.md I1) -/

/-- The same state on an implementation with another VEC_BYTES and SB_BEATS. -/
def State.withBeats (s : State) (w : VecBytes) (k : Nat) : State :=
  { s with cfg := { s.cfg with vecBytes := w, sbBeats := k } }

section
variable (s : State) (w : VecBytes) (k : Nat)

@[simp] theorem State.withBeats_len : (s.withBeats w k).len = s.len := rfl
@[simp] theorem State.withBeats_count : (s.withBeats w k).count = s.count := rfl
@[simp] theorem State.withBeats_dataFits : (s.withBeats w k).dataFits = s.dataFits := rfl
@[simp] theorem State.withBeats_tblOdd : (s.withBeats w k).tblOdd = s.tblOdd := rfl
@[simp] theorem State.withBeats_tableFits : (s.withBeats w k).tableFits = s.tableFits := rfl

@[simp] theorem State.withBeats_dataReply : (s.withBeats w k).dataReply = s.dataReply :=
  busReply_vecBytes s.cfg w k s.src.toNat s.len.toNat 1

@[simp] theorem State.withBeats_tableReply : (s.withBeats w k).tableReply = s.tableReply :=
  busReply_vecBytes s.cfg w k s.tbl.toNat (2 * s.count.toNat) 2

end

/-- Two outcomes of a command agree up to the beats: the second's next state is the first's with the other beats and,
only after a BUS error on a platform with BusErr, another ERRADDR. -/
def AgreeUpToBeats (c : Config) (w : VecBytes) (k : Nat) (o o' : Host.Outcome State Fault Refusal) : Prop :=
  ∃ t u, o = .next t ∧ o' = .next u ∧
    u = { t with cfg := { c with vecBytes := w, sbBeats := k }, erraddr := u.erraddr } ∧
    (u.erraddr = t.erraddr ∨ (t.errcode = .bus ∧ c.busErr ≠ []))

theorem agreeUpToBeats_withBeats (t : State) (w : VecBytes) (k : Nat) :
    AgreeUpToBeats t.cfg w k (.next t) (.next (t.withBeats w k)) := ⟨t, _, rfl, rfl, rfl, .inl rfl⟩

/-- A BUS error tells of a byte with BusErr. -/
theorem busErr_ne_nil_of_busReply_error {c : Config} {a n g e : Nat} (h : busReply c a n g = .error e) :
    c.busErr ≠ [] := by
  intro hnil
  obtain ⟨-, he, -⟩ := busReply_error h
  rw [hnil] at he
  cases he

theorem execAdlerUpd_withBeats (s : State) (w : VecBytes) (k : Nat) :
    AgreeUpToBeats s.cfg w k (execAdlerUpd s) (execAdlerUpd (s.withBeats w k)) := by
  simp only [execAdlerUpd, State.withBeats_dataFits, State.withBeats_len, State.withBeats_dataReply]
  split
  · exact agreeUpToBeats_withBeats (s.raiseError .range (some s.src)) w k
  split
  · exact agreeUpToBeats_withBeats s.complete w k
  cases hr : s.dataReply with
  | ok => exact agreeUpToBeats_withBeats (adlerDone s) w k
  | error e => exact ⟨adlerBusError s e, _, rfl, rfl, rfl, .inr ⟨rfl, busErr_ne_nil_of_busReply_error hr⟩⟩
  | hang => exact agreeUpToBeats_withBeats s w k

theorem execSlide_withBeats (s : State) (w : VecBytes) (k : Nat) :
    AgreeUpToBeats s.cfg w k (execSlide s) (execSlide (s.withBeats w k)) := by
  simp only [execSlide, State.withBeats_tblOdd, State.withBeats_tableFits, State.withBeats_count,
    State.withBeats_tableReply]
  split
  · exact agreeUpToBeats_withBeats (s.raiseError .align (some s.tbl)) w k
  split
  · exact agreeUpToBeats_withBeats (s.raiseError .range (some s.tbl)) w k
  split
  · exact agreeUpToBeats_withBeats s.complete w k
  cases hr : s.tableReply with
  | ok => exact agreeUpToBeats_withBeats (slideDone s) w k
  | error e => exact ⟨slideBusError s e, _, rfl, rfl, rfl, .inr ⟨rfl, busErr_ne_nil_of_busReply_error hr⟩⟩
  | hang => exact agreeUpToBeats_withBeats s w k

theorem exec_withBeats (i : Instr) (s : State) (w : VecBytes) (k : Nat) :
    AgreeUpToBeats s.cfg w k (exec i s) (exec i (s.withBeats w k)) := by
  cases i with
  | nop => exact agreeUpToBeats_withBeats s.complete w k
  | adlerUpd => exact execAdlerUpd_withBeats s w k
  | slide => exact execSlide_withBeats s w k

/-- Settles O48: every check and every answer of the bus is the same at all beats, so the same branch runs; only the
interval ERRADDR is drawn from after a BUS error reads VEC_BYTES. -/
theorem beatWidthIsInvisible : Obligations.BeatWidthIsInvisible := by
  intro s i w k _
  exact exec_withBeats i s w k

end Sys2Proof.Machine
end

/-! The proofs of the family 10_state, first layer: what a register write does to each flag, what a command's end leaves
in the registers, and all that one step of any agent does to them. -/
section
namespace Sys2Proof.Machine

/-! ## A write of a register (10_state.md R41, R43; 40_command.md R110)

One equation or equivalence for each field that the rules over every step speak of. -/

/-- The registers whose writes BUSY drops (R43). -/
def droppable : List Reg := [.cmd, .acc, .src, .len, .tbl, .count, .wsize]

/-- A write of `v` to `r` clears DONE (`k` = 1) or ERR (`k` = 2): an issue, or a write to STATUS with bit `k` = 1. -/
abbrev State.Clears (s : State) (r : Reg) (v : Word) (k : Nat) : Prop :=
  (r = .status ∧ v.getLsbD k = true) ∨ (r = .cmd ∧ s.busy = false)

section
variable (s : State) (r : Reg) (v : Word)

theorem regWrite_busy : (s.regWrite r v).busy = (s.busy || decide (r = .cmd)) := by
  cases hb : s.busy <;> cases r <;> simp [State.regWrite, State.unlessBusy, hb]

theorem regWrite_done : (s.regWrite r v).done = if s.Clears r v 1 then false else s.done := by
  obtain hb | hb := Bool.eq_false_or_eq_true s.busy <;> cases r <;>
    simp [State.regWrite, State.unlessBusy, State.Clears, hb, Bool.and_comm]

theorem regWrite_err : (s.regWrite r v).err = if s.Clears r v 2 then false else s.err := by
  obtain hb | hb := Bool.eq_false_or_eq_true s.busy <;> cases r <;>
    simp [State.regWrite, State.unlessBusy, State.Clears, hb, Bool.and_comm]

theorem regWrite_errcode : (s.regWrite r v).errcode = if s.Clears r v 2 then .none else s.errcode := by
  obtain hb | hb := Bool.eq_false_or_eq_true s.busy <;> cases r <;>
    simp [State.regWrite, State.unlessBusy, State.Clears, hb]

theorem regWrite_ovr_iff : (s.regWrite r v).ovr = true ↔
    (s.busy = true ∧ r ∈ droppable) ∨ (s.ovr = true ∧ ¬ (r = .status ∧ v.getLsbD 3 = true)) := by
  cases hb : s.busy <;> cases r <;> simp [State.regWrite, State.unlessBusy, droppable, hb]

theorem regWrite_cmd : (s.regWrite r v).cmd = if r = .cmd ∧ s.busy = false then v else s.cmd := by
  cases hb : s.busy <;> cases r <;> simp [State.regWrite, State.unlessBusy, hb]

theorem regWrite_erraddr : (s.regWrite r v).erraddr = s.erraddr := by
  cases hb : s.busy <;> cases r <;> simp [State.regWrite, State.unlessBusy, hb]

end

/-! ## The end of a command (40_command.md R114, R115) -/

/-- How a command ends: what its last engine turn leaves of the state it started from. -/
inductive CommandEnd (s : State) : State → Prop
  /-- Successful completion (R114): only ADLER.UPD writes a register, ACC. -/
  | success (acc : Word) (mem : Memory) (hacc : acc = s.acc ∨ decode? s.cmd = some .adlerUpd) :
    CommandEnd s { s with busy := false, done := true, acc := acc, mem := mem }
  /-- Error completion (R115): ERRADDR is written with ALIGN, RANGE and BUS only (10_state.md R33). -/
  | error (code : ErrCode) (addr : Word) (mem : Memory) (endDraws : Nat) (hcode : code ≠ .none)
    (haddr : addr = s.erraddr ∨ code = .align ∨ code = .range ∨ code = .bus) :
    CommandEnd s { s with busy := false, done := true, err := true, errcode := code, erraddr := addr,
                          mem := mem, endDraws := endDraws }

theorem decode?_of_ok {v : Word} {i : Instr} (h : decode v = .ok i) : decode? v = some i := by
  simp only [decode?, h]

theorem execAdlerUpd_ends {s t : State} (hd : decode? s.cmd = some .adlerUpd) (h : execAdlerUpd s = .next t) :
    t = s ∨ CommandEnd s t := by
  obtain ⟨-, k⟩ | ⟨-, -, k⟩ | ⟨-, -, -, k⟩ | ⟨e, -, -, -, k⟩ | ⟨-, -, -, k⟩ := execAdlerUpd_cases h <;>
    cases k
  · exact .inr (.error .range s.src s.mem s.endDraws (by decide) (.inr (.inr (.inl rfl))))
  · exact .inr (.success s.acc s.mem (.inl rfl))
  · exact .inr (.success (adler s.acc s.data) s.mem (.inr hd))
  · exact .inr (.error .bus _ s.mem (s.endDraws + 1) (by decide) (.inr (.inr (.inr rfl))))
  · exact .inl rfl

theorem execSlide_ends {s t : State} (h : execSlide s = .next t) : t = s ∨ CommandEnd s t := by
  obtain ⟨-, k⟩ | ⟨-, -, k⟩ | ⟨-, -, -, k⟩ | ⟨-, -, -, -, k⟩ | ⟨e, -, -, -, -, k⟩ | ⟨-, -, -, -, k⟩ :=
    execSlide_cases h <;> cases k
  · exact .inr (.error .align s.tbl s.mem s.endDraws (by decide) (.inr (.inl rfl)))
  · exact .inr (.error .range s.tbl s.mem s.endDraws (by decide) (.inr (.inr (.inl rfl))))
  · exact .inr (.success s.acc s.mem (.inl rfl))
  · exact .inr (.success s.acc _ (.inl rfl))
  · exact .inr (.error .bus _ s.mixedMem (s.endDraws + 1) (by decide) (.inr (.inr (.inr rfl))))
  · exact .inl rfl

theorem exec_ends {i : Instr} {s t : State} (hd : decode? s.cmd = some i) (h : exec i s = .next t) :
    t = s ∨ CommandEnd s t := by
  cases i with
  | nop => cases h; exact .inr (.success s.acc s.mem (.inl rfl))
  | adlerUpd => exact execAdlerUpd_ends hd h
  | slide => exact execSlide_ends h

/-- The engine's turn does nothing (an idle or a stuck engine) or ends the command of a busy engine. -/
theorem engineTurn_ends {s t : State} (h : engineTurn s = .next t) : t = s ∨ (s.busy = true ∧ CommandEnd s t) := by
  unfold engineTurn at h
  split at h
  · next hb =>
    refine Or.imp_right (⟨hb, ·⟩) ?_
    split at h
    · next i hd => exact exec_ends (decode?_of_ok hd) h
    · cases h; exact .inr (.error .illegalCmd s.erraddr s.mem s.endDraws (by decide) (.inl rfl))
  · cases h; exact .inl rfl

/-! ## What a reset leaves (70_reset_and_hazards.md R220) -/

section
variable (s : State)

@[simp] theorem resetTurn_busy : (resetTurn s).busy = false := by unfold resetTurn; split <;> rfl
@[simp] theorem resetTurn_done : (resetTurn s).done = false := by unfold resetTurn; split <;> rfl
@[simp] theorem resetTurn_err : (resetTurn s).err = false := by unfold resetTurn; split <;> rfl
@[simp] theorem resetTurn_errcode : (resetTurn s).errcode = .none := by unfold resetTurn; split <;> rfl
@[simp] theorem resetTurn_ovr : (resetTurn s).ovr = false := by unfold resetTurn; split <;> rfl
@[simp] theorem resetTurn_hostFaults : (resetTurn s).hostFaults = s.hostFaults := by unfold resetTurn; split <;> rfl
@[simp] theorem resetTurn_host : (resetTurn s).host = s.host := by unfold resetTurn; split <;> rfl

end

theorem resetTurn_memWf {s : State} (hm : Memory.wf s.mem = true) : Memory.wf (resetTurn s).mem = true := by
  unfold resetTurn
  split
  · next r hr => exact mixedMem_wf hm (slidTable_some hr).2.2
  · exact hm

/-! ## One step, as the registers see it -/

/-- The registers and the configuration of `s`, all else as in `u`: what a step that touches no register leaves. -/
def State.withRest (s u : State) : State :=
  { s with mem := u.mem, hostFaults := u.hostFaults, draws := u.draws, endDraws := u.endDraws, readData := u.readData,
           host := u.host, schedule := u.schedule }

/-- All that one step can do to the registers. -/
inductive StepEffect (s : State) : State → Prop
  /-- no register changes -/
  | keep (u : State) : StepEffect s (s.withRest u)
  /-- the engine ends the command -/
  | ends {t : State} (hturn : s.turn = .engine) (hbusy : s.busy = true) (hend : CommandEnd s.popTurn t) : StepEffect s t
  /-- the reset input -/
  | reset (hturn : s.turn = .reset) : StepEffect s (resetTurn s.popTurn)
  /-- a host writes a register; its own registers and position may change too -/
  | write (r : Reg) (v : Word) (host : HostCpu) (hw : s.writesNext r v) :
    StepEffect s { s.popTurn.regWrite r v with host := host }

theorem busStore_effect {s u : State} {a : Nat} {w : Width} {v : Word} (hn : s.nextStore = some (a, w, v))
    (h : busStore s.popTurn a w v = .next u) (host : HostCpu) : StepEffect s { u with host := host } := by
  obtain ⟨r, rfl, rfl, rfl⟩ | ⟨-, rfl | rfl | ⟨-, rfl⟩⟩ := busStore_cases h
  · exact .write r v host hn
  · exact .keep { s.popTurn with host := host }
  · exact .keep { s.popTurn.recordAccess with host := host }
  · unfold State.storeMem
    split
    · exact .keep { s.popTurn.recordRace with mem := memWrite s.mem a w.bytes v.toNat, host := host }
    · exact .keep { s.popTurn with mem := memWrite s.mem a w.bytes v.toNat, host := host }

theorem busLoad_effect {s u : State} {a : Nat} {w : Width} (h : busLoad s.popTurn a w = .next u) (host : HostCpu) :
    StepEffect s { u with host := host } := by
  obtain rfl | ⟨v, rfl⟩ | ⟨-, rfl⟩ := busLoad_cases h
  · exact .keep { s.popTurn.recordAccess with host := host }
  · exact .keep { s.popTurn with readData := v, host := host }
  · exact .keep { s.popTurn.loadMem a w.bytes with host := host }

theorem step_effect {s t : State} (h : step s = .next t) : StepEffect s t := by
  obtain ⟨hturn, he⟩ | ⟨hturn, rfl⟩ | ⟨-, ⟨a, w, v, u, hn, hb, ht⟩ | ⟨-, u, hu, ht⟩⟩ := step_stores h
  · obtain rfl | ⟨hbusy, hend⟩ := engineTurn_ends he
    · exact .keep s.popTurn
    · exact .ends hturn hbusy hend
  · exact .reset hturn
  · rw [ht]; exact busStore_effect hn hb t.host
  · rw [ht]
    obtain rfl | ⟨a, w, hl⟩ := hu
    · exact .keep { s.popTurn with host := t.host }
    · exact busLoad_effect hl t.host

theorem step_reset {s t : State} (hturn : s.turn = .reset) (h : step s = .next t) : t = resetTurn s.popTurn := by
  simp only [step, hturn, takeTurn] at h
  exact (Host.Outcome.next.inj h).symm

end Sys2Proof.Machine
end

/-! The proofs of the family 10_state: the invariant and the rules over every step (10_state.md R20, R33 to R40, R49). -/
section
namespace Sys2Proof.Machine

/-! ## The invariant (10_state.md R40, 20_memory.md R60, 70_reset_and_hazards.md R231) -/

/-- A bus access does not touch the host agent. -/
theorem busAccess_host {s t : State} {x : Access} (h : busAccess s x = .next t) : t.host = s.host := by
  obtain ⟨r, v, rfl⟩ | rfl | rfl | ⟨v, rfl⟩ | ⟨a, w, -, rfl⟩ | ⟨a, w, v, -, rfl⟩ := busAccess_cases h
  · obtain e | e | e | ⟨-, e⟩ | ⟨-, e | e | e | e | e | e | e⟩ := regWrite_cases s r v <;> rw [e] <;> simp
  · rfl
  · rfl
  · rfl
  · rfl
  · unfold State.storeMem; split <;> rfl

theorem engineTurn_host {s t : State} (h : engineTurn s = .next t) : t.host = s.host := by
  obtain rfl | ⟨-, ⟨acc, mem, -⟩ | ⟨code, addr, mem, k, -, -⟩⟩ := engineTurn_ends h <;> rfl

theorem step_regsWf {s t : State} (hr : mapWf s.host.regs = true) (h : step s = .next t) :
    mapWf t.host.regs = true := by
  unfold step at h
  cases hturn : s.turn with
  | host => rw [hturn] at h; exact hostTurn_regsWf (s := s.popTurn) hr h
  | access x => rw [hturn] at h; rw [busAccess_host h]; exact hr
  | engine => rw [hturn] at h; rw [engineTurn_host h]; exact hr
  | reset => rw [hturn] at h; cases h; rw [resetTurn_host]; exact hr

theorem step_memWf {s t : State} (hm : Memory.wf s.mem = true) (h : step s = .next t) : Memory.wf t.mem = true := by
  obtain ⟨-, he⟩ | ⟨-, rfl⟩ | ⟨-, u, hu, ht⟩ := step_cases h
  · exact engineTurn_memWf (s := s.popTurn) hm he
  · exact resetTurn_memWf (s := s.popTurn) hm
  · rw [ht]
    obtain rfl | ⟨x, hx⟩ := hu
    · exact hm
    · exact busAccess_memWf (s := s.popTurn) (t := u) hm hx

/-- ERRCODE is NONE exactly while ERR = 0 (R40). -/
def State.CodeIffErr (s : State) : Prop := s.errcode = .none ↔ s.err = false

/-- While a command runs DONE and ERR are 0 (R231). -/
def State.BusyClear (s : State) : Prop := s.busy = true → s.done = false ∧ s.err = false

theorem regWrite_codeIffErr {s : State} (hc : s.CodeIffErr) (r : Reg) (v : Word) : (s.regWrite r v).CodeIffErr := by
  unfold State.CodeIffErr
  rw [regWrite_err, regWrite_errcode]
  split
  · exact iff_of_true rfl rfl
  · exact hc

theorem regWrite_busyClear {s : State} (hc : s.BusyClear) (r : Reg) (v : Word) : (s.regWrite r v).BusyClear := by
  intro ht
  rw [regWrite_done, regWrite_err]
  obtain hb | hb := Bool.eq_false_or_eq_true s.busy
  · obtain ⟨hd, he⟩ := hc hb
    simp [hd, he]
  · have hr : r = .cmd := by simpa [regWrite_busy, hb] using ht
    exact ⟨if_pos (.inr ⟨hr, hb⟩), if_pos (.inr ⟨hr, hb⟩)⟩

theorem step_codeIffErr {s t : State} (hc : s.CodeIffErr) (h : step s = .next t) : t.CodeIffErr := by
  cases step_effect h with
  | keep u => exact hc
  | ends _ _ hend =>
    cases hend with
    | success acc mem _ => exact hc
    | error code addr mem k hcode _ => exact iff_of_false hcode nofun
  | reset _ => exact iff_of_true (resetTurn_errcode _) (resetTurn_err _)
  | write r v host _ => exact regWrite_codeIffErr (s := s.popTurn) hc r v

theorem step_busyClear {s t : State} (hc : s.BusyClear) (h : step s = .next t) : t.BusyClear := by
  cases step_effect h with
  | keep u => exact hc
  | ends _ _ hend => cases hend <;> exact nofun
  | reset _ => exact fun _ => ⟨resetTurn_done _, resetTurn_err _⟩
  | write r v host _ => exact regWrite_busyClear (s := s.popTurn) hc r v

/-- Settles O6: each part of the invariant is kept by every agent's turn. -/
theorem stepKeepsTheInvariant : Obligations.StepKeepsTheInvariant := by
  intro s t hs h
  exact
    { legal := by rw [step_cfg h]; exact hs.legal
      memWf := step_memWf hs.memWf h
      regsWf := step_regsWf hs.regsWf h
      codeIffErr := step_codeIffErr hs.codeIffErr h
      busyClear := step_busyClear hs.busyClear h }

/-! ## The host-fault set (10_state.md R49) -/

/-- Each fault recorded in `f` is recorded in `g`. -/
def HostFaults.Subset (f g : HostFaults) : Prop :=
  (f.hostAccess = true → g.hostAccess = true) ∧ (f.hostRace = true → g.hostRace = true) ∧
  (f.hostSideFx = true → g.hostSideFx = true)

theorem HostFaults.Subset.refl (f : HostFaults) : f.Subset f := ⟨id, id, id⟩

theorem engineTurn_hostFaults {s t : State} (h : engineTurn s = .next t) : t.hostFaults = s.hostFaults := by
  obtain rfl | ⟨-, ⟨acc, mem, -⟩ | ⟨code, addr, mem, k, -, -⟩⟩ := engineTurn_ends h <;> rfl

theorem issue_hostFaults_subset (s : State) (v : Word) : s.hostFaults.Subset (s.issue v).hostFaults := by
  rw [issue_hostFaults]
  split
  · exact ⟨id, id, fun _ => rfl⟩
  · exact .refl _

theorem regWrite_hostFaults_subset (s : State) (r : Reg) (v : Word) :
    s.hostFaults.Subset (s.regWrite r v).hostFaults := by
  obtain e | e | e | ⟨-, e⟩ | ⟨-, e | e | e | e | e | e | e⟩ := regWrite_cases s r v <;> rw [e]
  case inr.inr.inr.inr.inl => exact issue_hostFaults_subset s v
  case inr.inr.inl => rw [State.writeStatus_hostFaults]; exact .refl _
  all_goals exact .refl _

theorem storeMem_hostFaults_subset (s : State) (a n : Nat) (v : Word) :
    s.hostFaults.Subset (s.storeMem a n v).hostFaults := by
  unfold State.storeMem
  split
  · exact ⟨id, fun _ => rfl, id⟩
  · exact .refl _

theorem busAccess_hostFaults_subset {s t : State} {x : Access} (h : busAccess s x = .next t) :
    s.hostFaults.Subset t.hostFaults := by
  obtain ⟨r, v, rfl⟩ | rfl | rfl | ⟨v, rfl⟩ | ⟨a, w, -, rfl⟩ | ⟨a, w, v, -, rfl⟩ := busAccess_cases h
  · exact regWrite_hostFaults_subset s r v
  · exact .refl _
  · exact ⟨fun _ => rfl, id, id⟩
  · exact .refl _
  · exact .refl _
  · exact storeMem_hostFaults_subset s a w.bytes v

/-- Settles O38: the engine and the reset input leave the set, and a bus access only adds to it. -/
theorem hostFaultsNeverShrink : Obligations.HostFaultsNeverShrink := by
  intro s t h
  show s.hostFaults.Subset t.hostFaults
  obtain ⟨-, he⟩ | ⟨-, rfl⟩ | ⟨-, u, hu, ht⟩ := step_cases h
  · rw [engineTurn_hostFaults he]; exact .refl _
  · rw [resetTurn_hostFaults]; exact .refl _
  · rw [ht]
    obtain rfl | ⟨x, hx⟩ := hu
    · exact .refl _
    · exact busAccess_hostFaults_subset (s := s.popTurn) (t := u) hx

/-! ## The flags of STATUS (10_state.md R36 to R39) -/

/-- Settles O30: of all that a step can do, a write of CMD alone sets BUSY, and a command's end or a reset clears it. -/
theorem busyChangesOnlyByIssueCompletionReset : Obligations.BusyChangesOnlyByIssueCompletionReset := by
  intro s t h _
  refine ⟨fun hs ht => ?_, fun hs ht => ?_⟩
  · cases step_effect h with
    | keep u => exact nomatch hs.symm.trans ht
    | ends _ hb _ => exact nomatch hs.symm.trans hb
    | reset _ => simp at ht
    | write r v host hw =>
      have hr : r = .cmd := by simpa [regWrite_busy, hs] using ht
      exact ⟨v, hr ▸ hw⟩
  · cases step_effect h with
    | keep u => exact nomatch hs.symm.trans ht
    | ends hturn _ hend => exact .inl ⟨hturn, by cases hend <;> rfl⟩
    | reset hturn => exact .inr hturn
    | write r v host _ => simp [regWrite_busy, hs] at ht

/-- The next step clears DONE (`k` = 1) or ERR (`k` = 2): it is an issue, a write to STATUS with bit `k` = 1, or a
reset. -/
def State.ClearsNext (s : State) (k : Nat) : Prop :=
  (∃ v, s.busy = false ∧ s.writesNext .cmd v) ∨ (∃ v, v.getLsbD k = true ∧ s.writesNext .status v) ∨ s.turn = .reset

theorem clearsNext_of_write {s : State} {r : Reg} {v : Word} {k : Nat} (hw : s.writesNext r v)
    (hc : s.Clears r v k) : s.ClearsNext k := by
  obtain ⟨rfl, hv⟩ | ⟨rfl, hb⟩ := hc
  · exact .inr (.inl ⟨v, hv, hw⟩)
  · exact .inl ⟨v, hb, hw⟩

/-- What a write that clears a flag, or a reset, does: the step's next state is that write's, or the reset's. -/
theorem step_clears {s t : State} {k : Nat} (hc : s.ClearsNext k) (h : step s = .next t) :
    t = resetTurn s.popTurn ∨
      ∃ r v, s.popTurn.Clears r v k ∧ t = { s.popTurn.regWrite r v with host := t.host } := by
  obtain ⟨v, hb, hw⟩ | ⟨v, hv, hw⟩ | hturn := hc
  · exact .inr ⟨.cmd, v, .inr ⟨rfl, hb⟩, (step_writes hw h).2⟩
  · exact .inr ⟨.status, v, .inl ⟨rfl, hv⟩, (step_writes hw h).2⟩
  · exact .inl (step_reset hturn h)

theorem step_done_of_clearsNext {s t : State} (hc : s.ClearsNext 1) (h : step s = .next t) : t.done = false := by
  obtain rfl | ⟨r, v, hc, ht⟩ := step_clears hc h
  · exact resetTurn_done _
  · rw [ht]; exact (regWrite_done _ r v).trans (if_pos hc)

theorem step_err_of_clearsNext {s t : State} (hc : s.ClearsNext 2) (h : step s = .next t) :
    t.err = false ∧ t.errcode = .none := by
  obtain rfl | ⟨r, v, hc, ht⟩ := step_clears hc h
  · exact ⟨resetTurn_err _, resetTurn_errcode _⟩
  · rw [ht]; exact ⟨(regWrite_err _ r v).trans (if_pos hc), (regWrite_errcode _ r v).trans (if_pos hc)⟩

/-- DONE rises only where the engine ends a command. -/
theorem step_done_rises {s t : State} (h : step s = .next t) (hs : s.done = false) (ht : t.done = true) :
    s.turn = .engine ∧ s.busy = true ∧ t.busy = false := by
  cases step_effect h with
  | keep u => exact nomatch hs.symm.trans ht
  | ends hturn hb hend => exact ⟨hturn, hb, by cases hend <;> rfl⟩
  | reset _ => simp at ht
  | write r v host _ => simp [regWrite_done, hs] at ht

theorem step_done_falls {s t : State} (h : step s = .next t) (hs : s.done = true) (ht : t.done = false) :
    s.ClearsNext 1 := by
  cases step_effect h with
  | keep u => exact nomatch ht.symm.trans hs
  | ends _ _ hend => cases hend <;> cases ht
  | reset hturn => exact .inr (.inr hturn)
  | write r v host hw =>
    by_contra hn
    have hd := (regWrite_done s.popTurn r v).trans (if_neg fun hc => hn (clearsNext_of_write hw hc))
    exact nomatch ht.symm.trans (hd.trans hs)

/-- An engine turn that leaves BUSY = 0 has ended the command. -/
theorem step_engine_ends {s t : State} (h : step s = .next t) (hturn : s.turn = .engine) (hs : s.busy = true)
    (ht : t.busy = false) : CommandEnd s.popTurn t := by
  simp only [step, hturn, takeTurn] at h
  obtain rfl | ⟨-, hend⟩ := engineTurn_ends h
  · exact nomatch hs.symm.trans ht
  · exact hend

/-- Settles O31: DONE is 1 at a command's end, cleared by the writes that clear it and by reset, and else unchanged. -/
theorem doneChangesOnlyAsStated : Obligations.DoneChangesOnlyAsStated := by
  intro s t h _
  refine ⟨step_done_rises h, fun hturn hs ht => ?_, step_done_falls h,
    fun v hb hw => step_done_of_clearsNext (.inl ⟨v, hb, hw⟩) h,
    fun v hv hw => step_done_of_clearsNext (.inr (.inl ⟨v, hv, hw⟩)) h,
    fun hturn => step_done_of_clearsNext (.inr (.inr hturn)) h⟩
  cases step_engine_ends h hturn hs ht <;> rfl

/-- ERR rises only where the engine ends a command with an error code. -/
theorem step_err_rises {s t : State} (h : step s = .next t) (hs : s.err = false) (ht : t.err = true) :
    s.turn = .engine ∧ s.busy = true ∧ t.busy = false ∧ t.errcode ≠ .none := by
  cases step_effect h with
  | keep u => exact nomatch hs.symm.trans ht
  | ends hturn hb hend =>
    cases hend with
    | success acc mem _ => exact nomatch hs.symm.trans ht
    | error code addr mem k hcode _ => exact ⟨hturn, hb, rfl, hcode⟩
  | reset _ => simp at ht
  | write r v host _ => simp [regWrite_err, hs] at ht

theorem step_err_falls {s t : State} (h : step s = .next t) (hs : s.err = true) (ht : t.err = false) :
    s.ClearsNext 2 := by
  cases step_effect h with
  | keep u => exact nomatch ht.symm.trans hs
  | ends _ _ hend =>
    cases hend with
    | success acc mem _ => exact nomatch ht.symm.trans hs
    | error code addr mem k _ _ => cases ht
  | reset hturn => exact .inr (.inr hturn)
  | write r v host hw =>
    by_contra hn
    have he := (regWrite_err s.popTurn r v).trans (if_neg fun hc => hn (clearsNext_of_write hw hc))
    exact nomatch ht.symm.trans (he.trans hs)

/-- A turn of the engine that gives an error code sets ERR. -/
theorem step_engine_errcode {s t : State} (h : step s = .next t) (hturn : s.turn = .engine) (hs : s.errcode = .none)
    (ht : t.errcode ≠ .none) : t.err = true := by
  simp only [step, hturn, takeTurn] at h
  obtain rfl | ⟨-, ⟨acc, mem, -⟩ | ⟨code, addr, mem, k, -, -⟩⟩ := engineTurn_ends h
  · exact absurd hs ht
  · exact absurd hs ht
  · rfl

/-- Settles O32: ERR is 1 at a command's end with an error, cleared, with ERRCODE, by the writes that clear it and by
reset, and else unchanged. -/
theorem errChangesOnlyAsStated : Obligations.ErrChangesOnlyAsStated := by
  intro s t h _
  refine ⟨step_err_rises h, fun hs ht => ?_, step_engine_errcode h,
    fun v hb hw => step_err_of_clearsNext (.inl ⟨v, hb, hw⟩) h,
    fun v hv hw => step_err_of_clearsNext (.inr (.inl ⟨v, hv, hw⟩)) h,
    fun hturn => step_err_of_clearsNext (.inr (.inr hturn)) h⟩
  have hc := step_err_falls h hs ht
  exact ⟨(step_err_of_clearsNext hc h).2, hc⟩

/-- What a step that writes a register leaves in OVR. -/
theorem step_ovr_of_write {s t : State} {r : Reg} {v : Word} (hw : s.writesNext r v) (h : step s = .next t) :
    t.ovr = true ↔ (s.busy = true ∧ r ∈ droppable) ∨ (s.ovr = true ∧ ¬ (r = .status ∧ v.getLsbD 3 = true)) := by
  rw [(step_writes hw h).2]
  exact regWrite_ovr_iff s.popTurn r v

theorem step_ovr_rises {s t : State} (h : step s = .next t) (hs : s.ovr = false) (ht : t.ovr = true) :
    s.busy = true ∧ ∃ v, ∃ r ∈ droppable, s.writesNext r v := by
  cases step_effect h with
  | keep u => exact nomatch hs.symm.trans ht
  | ends _ _ hend => cases hend <;> exact nomatch hs.symm.trans ht
  | reset _ => simp at ht
  | write r v host hw =>
    obtain ⟨hb, hr⟩ | ⟨ho, -⟩ := (regWrite_ovr_iff s.popTurn r v).1 ht
    · exact ⟨hb, v, r, hr, hw⟩
    · exact nomatch hs.symm.trans ho

theorem step_ovr_falls {s t : State} (h : step s = .next t) (hs : s.ovr = true) (ht : t.ovr = false) :
    (∃ v, v.getLsbD 3 = true ∧ s.writesNext .status v) ∨ s.turn = .reset := by
  cases step_effect h with
  | keep u => exact nomatch ht.symm.trans hs
  | ends _ _ hend => cases hend <;> exact nomatch ht.symm.trans hs
  | reset hturn => exact .inr hturn
  | write r v host hw =>
    refine .inl ⟨v, ?_⟩
    by_contra hn
    have ho := (regWrite_ovr_iff s.popTurn r v).2 (.inr ⟨hs, fun ⟨hr, hv⟩ => hn ⟨hv, hr ▸ hw⟩⟩)
    exact nomatch ht.symm.trans ho

/-- Settles O33: only a register write or a reset changes OVR; the write's rule says which value it leaves. -/
theorem ovrChangesOnlyAsStated : Obligations.OvrChangesOnlyAsStated := by
  intro s t h _
  refine ⟨step_ovr_rises h, step_ovr_falls h, fun v r hr hb hw => (step_ovr_of_write hw h).2 (.inl ⟨hb, hr⟩),
    fun v hv hw => ?_, fun v hb hw => ?_, fun hturn => ?_⟩
  · have := step_ovr_of_write hw h
    simpa [droppable, hv] using this
  · have := step_ovr_of_write hw h
    exact Bool.eq_iff_iff.2 (by simpa [hb] using this)
  · rw [step_reset hturn h, resetTurn_ovr]

/-! ## The other registers (10_state.md R20, R33, R34) -/

/-- Settles O34: a command's end is the only thing a turn of the engine does, and it writes no operand but ACC. -/
theorem commandsKeepOperands : Obligations.CommandsKeepOperands := by
  intro s t h _ hturn
  simp only [step, hturn, takeTurn] at h
  obtain rfl | ⟨hb, ⟨acc, mem, hacc⟩ | ⟨code, addr, mem, k, -, -⟩⟩ := engineTurn_ends h
  · exact ⟨⟨rfl, rfl, rfl, rfl, rfl⟩, fun hne => absurd rfl hne⟩
  · exact ⟨⟨rfl, rfl, rfl, rfl, rfl⟩, fun hne => ⟨hacc.resolve_left hne, hb, rfl, rfl⟩⟩
  · exact ⟨⟨rfl, rfl, rfl, rfl, rfl⟩, fun hne => absurd rfl hne⟩

/-- Settles O35: no write and no successful end touches ERRADDR; an error end does with ALIGN, RANGE and BUS only. -/
theorem erraddrChangesOnlyByErrors : Obligations.ErraddrChangesOnlyByErrors := by
  intro s t h _ hne
  cases step_effect h with
  | keep u => exact absurd rfl hne
  | ends hturn hb hend =>
    cases hend with
    | success acc mem _ => exact absurd rfl hne
    | error code addr mem k _ haddr => exact .inr ⟨hturn, hb, rfl, rfl, haddr.resolve_left hne⟩
  | reset hturn => exact .inl hturn
  | write r v host _ => exact absurd (regWrite_erraddr s.popTurn r v) hne

/-- Settles O36: of all that a step can do, only a reset and a write of CMD to an idle engine change CMD. -/
theorem commandWordChangesOnlyByIssue : Obligations.CommandWordChangesOnlyByIssue := by
  intro s t h _ hne
  cases step_effect h with
  | keep u => exact absurd rfl hne
  | ends _ _ hend => cases hend <;> exact absurd rfl hne
  | reset hturn => exact .inl hturn
  | write r v host hw =>
    simp only [regWrite_cmd, regWrite_busy] at hne ⊢
    by_cases hi : r = .cmd ∧ s.popTurn.busy = false
    · rw [if_pos hi]
      obtain ⟨rfl, hb⟩ := hi
      exact .inr ⟨hb, by simp, hw⟩
    · rw [if_neg hi] at hne
      exact absurd rfl hne

end Sys2Proof.Machine
end

/-! The proofs of the family 10_state: the register window, access by access (10_state.md R20 to R44). -/
section
namespace Sys2Proof.Machine

/-! ## Aligned word accesses of the window (10_state.md R22, R23, R42) -/

/-- A word read at an aligned offset of the window. -/
theorem busLoad_port (s : State) {off : Nat} (h1 : off < windowSize) (h2 : off % 4 = 0) :
    busLoad s (s.cfg.coreBase + off) .word = .next { s with readData := s.portRead off } := by
  simp only [busLoad, target_port h1 h2]

/-- A word write at an aligned offset of the window. -/
theorem busStore_port (s : State) {off : Nat} (h1 : off < windowSize) (h2 : off % 4 = 0) (v : Word) :
    busStore s (s.cfg.coreBase + off) .word v = .next (s.portWrite off v) := by
  simp only [busStore, target_port h1 h2]

theorem portRead_reserved (s : State) {off : Nat} (h : 0x030 ≤ off) : s.portRead off = 0#32 := by
  simp only [State.portRead, regAt_reserved h]

theorem portWrite_reserved (s : State) {off : Nat} (h : 0x030 ≤ off) (v : Word) : s.portWrite off v = s := by
  simp only [State.portWrite, regAt_reserved h]

/-- Settles O19: each offset of the list is a register's, and a register's read changes `readData` alone. -/
theorem registerReadsHaveNoSideEffect : Obligations.RegisterReadsHaveNoSideEffect := by
  intro s _
  simp only [List.forall_mem_cons]
  exact ⟨busLoad_reg s .id, busLoad_reg s .cap, busLoad_reg s .ctrl, busLoad_reg s .status, busLoad_reg s .cmd,
    busLoad_reg s .acc, busLoad_reg s .src, busLoad_reg s .len, busLoad_reg s .tbl, busLoad_reg s .count,
    busLoad_reg s .wsize, busLoad_reg s .erraddr, nofun⟩

/-- Settles O20: no register stands at a reserved offset, and a write of ID, CAP or ERRADDR is ignored. -/
theorem reservedAndReadOnlyIgnoreWrites : Obligations.ReservedAndReadOnlyIgnoreWrites := by
  intro s v _
  constructor
  · intro off h1 h2 h4
    have hw : off < windowSize := Nat.lt_of_le_of_lt h2 (by decide)
    rw [busLoad_port s hw h4, busStore_port s hw h4, portRead_reserved s h1, portWrite_reserved s h1]
    exact ⟨rfl, rfl⟩
  · simp only [List.forall_mem_cons]
    exact ⟨busStore_reg s .id v, busStore_reg s .cap v, busStore_reg s .erraddr v, nofun⟩

/-! ## Writes while busy and while idle (10_state.md R20, R41, R43) -/

theorem unlessBusy_of_idle {s : State} (hb : s.busy = false) (t : State) : s.unlessBusy t = t := by
  simp [State.unlessBusy, hb]

theorem unlessBusy_of_busy {s : State} (hb : s.busy = true) (t : State) : s.unlessBusy t = s.dropWrite := by
  simp [State.unlessBusy, hb]

/-- BUSY drops a write of CMD or of an operand register (R43). -/
theorem regWrite_of_busy {s : State} {r : Reg} (hb : s.busy = true) (hr : r ∈ droppable) (v : Word) :
    s.regWrite r v = s.dropWrite := by
  cases r
  case id | cap | ctrl | status | erraddr => exact absurd hr (by decide)
  all_goals exact unlessBusy_of_busy hb _

/-- A write of STATUS, field by field (R41). -/
theorem writeStatus_eq (s : State) (v : Word) : s.writeStatus v =
    { s with done := s.done && !v.getLsbD 1
             err := s.err && !v.getLsbD 2
             errcode := if v.getLsbD 2 then .none else s.errcode
             ovr := s.ovr && !v.getLsbD 3 } := by
  unfold State.writeStatus
  split
  · next hv => rw [hv, Bool.not_true, Bool.and_false]; rfl
  · next hv => rw [Bool.eq_false_of_not_eq_true hv, Bool.not_false, Bool.and_true]

/-- Settles O23: the store at 0x00C is the write of STATUS. -/
theorem statusWriteClears : Obligations.StatusWriteClears := by
  intro s v _
  exact (busStore_reg s .status v).trans (congrArg _ (writeStatus_eq s v))

/-- Settles O21: the seven offsets are those of the registers whose writes BUSY drops; CTRL and STATUS are not. -/
theorem busyDropsWrites : Obligations.BusyDropsWrites := by
  intro s v hf hb
  refine ⟨fun off hoff => ?_, busStore_reg s .ctrl v, statusWriteClears s v hf⟩
  obtain ⟨r, hr, rfl⟩ := List.mem_map.1 (show off ∈ droppable.map Reg.offset from hoff)
  exact (busStore_reg s r v).trans (congrArg _ (regWrite_of_busy hb hr v))

/-- Settles O22: an idle engine lets the write of an operand register through. -/
theorem idleOperandWritesLand : Obligations.IdleOperandWritesLand := by
  intro s v _ hb
  have lands : ∀ r t, s.regWrite r v = s.unlessBusy t → busStore s (s.regAddr r) .word v = .next t := by
    intro r t h
    rw [busStore_reg, h, unlessBusy_of_idle hb]
  exact ⟨lands .acc _ rfl, lands .src _ rfl, lands .len _ rfl, lands .tbl _ rfl, lands .count _ rfl,
    lands .wsize _ rfl⟩

/-! ## Accesses of the window other than aligned words (10_state.md R44) -/

theorem window_meets_iff {c : Config} {a n : Nat} : (Config.window c).meets a n = true ↔ InWindow c a n := by
  rw [Region.meets_iff]
  exact exists_congr fun x => by rw [Region.holds_iff, and_comm]; rfl

/-- An access that touches the window goes to the port only where it is an aligned word. -/
theorem target_badPort {c : Config} {a : Nat} {w : Width} (hin : InWindow c a w.bytes)
    (hn : ¬ (w = .word ∧ c.coreBase ≤ a ∧ (a - c.coreBase) % 4 = 0)) : target c a w = .badPort := by
  unfold target
  rw [if_pos (window_meets_iff.2 hin), if_neg hn]

/-- Settles O25: such an access has no target but the record. -/
theorem nonWordAccessIsRecorded : Obligations.NonWordAccessIsRecorded := by
  intro s a w v _ hin hn
  simp only [busLoad, busStore, target_badPort hin hn]
  exact ⟨rfl, rfl⟩

/-! ## The words CTRL, STATUS and CAP as numbers (10_state.md R25, R26, R35) -/

/-- Concatenation as arithmetic: the first part is the high one. -/
theorem toNat_append_eq_add {m n : Nat} (x : BitVec m) (y : BitVec n) :
    (x ++ y).toNat = x.toNat * 2 ^ n + y.toNat := by
  rw [BitVec.toNat_append, ← Nat.shiftLeft_add_eq_or_of_lt y.isLt, Nat.shiftLeft_eq]

theorem ctrlWord_toNat (s : State) :
    s.ctrlWord.toNat = s.ieDone.toNat + 2 * s.ieErr.toNat + 4 * s.ieOvr.toNat := by
  simp only [State.ctrlWord, toNat_append_eq_add, BitVec.toNat_ofBool, BitVec.toNat_ofNat]
  omega

theorem statusWord_toNat (s : State) : s.statusWord.toNat = s.busy.toNat + 2 * s.done.toNat + 4 * s.err.toNat
    + 8 * s.ovr.toNat + 16 * s.errcode.code.toNat := by
  simp only [State.statusWord, toNat_append_eq_add, BitVec.toNat_ofBool, BitVec.toNat_ofNat]
  omega

theorem capWord_toNat (c : Config) (h : c.sbBeats < 1024) :
    (capWord c).toNat = c.vecBytes.log2 + 16 + 65536 * c.sbBeats := by
  have hlog : c.vecBytes.log2 < 16 := by cases c.vecBytes <;> decide
  simp only [capWord, toNat_append_eq_add, BitVec.toNat_ofNat]
  omega

/-- The three low bits of a word, as a number. -/
theorem low_bits_toNat (v : Word) :
    (v.getLsbD 0).toNat + 2 * (v.getLsbD 1).toNat + 4 * (v.getLsbD 2).toNat = v.toNat % 8 := by
  simp only [BitVec.getLsbD, Nat.toNat_testBit]
  omega

/-- Settles O24: the write sets the enables to the low bits of the word; the rest is what CTRL and IRQ are made of. -/
theorem controlRegister : Obligations.ControlRegister := by
  refine ⟨fun s v _ => ⟨s.writeCtrl v, busStore_reg s .ctrl v, rfl, ?_, ?_, ?_, ?_⟩, by decide⟩
  · rw [ctrlWord_toNat]; exact low_bits_toNat v
  · intro hv hd; simp [State.irq, hv, hd]
  · intro hv he; simp [State.irq, hv, he]
  · intro hv ho; simp [State.irq, hv, ho]

/-- An error code that is not NONE is one of the four of R40. -/
theorem errCode_code_bounds {c : ErrCode} (h : c ≠ .none) : 1 ≤ c.code.toNat ∧ c.code.toNat ≤ 4 := by
  cases c
  case none => exact absurd rfl h
  all_goals decide

/-- Settles O27: the layout by arithmetic, the codes by the invariant. -/
theorem statusLayout : Obligations.StatusLayout := by
  intro s
  refine ⟨statusWord_toNat s, fun hs he => ?_, fun hs he => errCode_code_bounds fun hc => ?_⟩
  · rw [hs.codeIffErr.2 he]; rfl
  · exact nomatch he.symm.trans (hs.codeIffErr.1 hc)

/-- SB_BEATS of a legal configuration (00_scope.md R8): KMAX is largest at W = 8. -/
theorem sbBeats_bounds {c : Config} (h : c.legal = true) : 1 ≤ c.sbBeats ∧ c.sbBeats ≤ 963 := by
  have hk : c.vecBytes.kmax ≤ 963 := by cases c.vecBytes <;> decide
  simp only [Config.legal, Bool.and_eq_true, decide_eq_true_eq] at h
  exact ⟨h.1, h.2.trans hk⟩

/-- The fields of CAP in a legal configuration (R25). -/
theorem capWord_fields {c : Config} (h : c.sbBeats < 1024) :
    ((capWord c).extractLsb' 0 4).toNat = c.vecBytes.log2 ∧ (capWord c).getLsbD 4 = true ∧
    (capWord c).extractLsb' 5 11 = 0#11 ∧ ((capWord c).extractLsb' 16 10).toNat = c.sbBeats ∧
    (capWord c).extractLsb' 26 6 = 0#6 := by
  have hlog : c.vecBytes.log2 < 16 := by cases c.vecBytes <;> decide
  simp only [← BitVec.toNat_inj, BitVec.extractLsb'_toNat, BitVec.getLsbD, Nat.testBit_eq_decide_div_mod_eq,
    Nat.shiftRight_eq_div_pow, BitVec.toNat_ofNat, decide_eq_true_eq, capWord_toNat c h]
  omega

/-- Settles O26: CAP is a number with its fields apart; it reads nothing but the configuration, which no step changes. -/
theorem capabilityFields : Obligations.CapabilityFields := by
  refine ⟨fun s hl => ?_, by decide, fun s t h => by rw [portRead_cap, portRead_cap, step_cfg h]⟩
  obtain ⟨hlow, hhigh⟩ := sbBeats_bounds hl
  obtain ⟨hlog, hwide, hzero, hbeats, hzero'⟩ := capWord_fields (c := s.cfg) (by omega)
  rw [portRead_cap]
  exact ⟨congrArg _ hlog, hwide, hzero, hbeats, hlow, hhigh, hzero'⟩

end Sys2Proof.Machine
end

/-! The proofs of the family 20_memory: side-effect memory at issue (R67), table entries (R62), a host's access of plain
memory (R73, R74), and where a step changes memory (R68, R83). -/
section
namespace Sys2Proof.Machine

/-! ## Side-effect memory at issue (20_memory.md R67) -/

theorem firstIn_isSome_iff {rs : List Region} {a n : Nat} :
    (firstIn rs a n).isSome = true ↔ ∃ x, (a ≤ x ∧ x < a + n) ∧ inRegions rs x = true := by
  rw [Option.isSome_iff_exists]
  constructor
  · rintro ⟨e, he⟩
    obtain ⟨hrange, hin, -⟩ := firstIn_some he
    exact ⟨e, hrange, hin⟩
  · rintro ⟨x, hrange, hin⟩
    refine Option.ne_none_iff_exists'.1 fun hnone => ?_
    exact nomatch (firstIn_none hnone hrange.1 hrange.2).symm.trans hin

theorem coversSideFx_iff {c : Config} {r : Region} : coversSideFx c r = true ↔ ∃ x, r.holds x = true ∧
    ((c.coreBase ≤ x ∧ x < c.coreBase + 0x1000) ∨ inRegions c.sideFx x = true) := by
  have hcovers : coversSideFx c r = true ↔
      InWindow c r.base r.size ∨ (firstIn c.sideFx r.base r.size).isSome = true := by
    rw [← window_meets_iff, ← Bool.or_eq_true]; rfl
  rw [hcovers, firstIn_isSome_iff, InWindow, ← exists_or]
  simp only [Region.holds_iff, and_or_left]

theorem issueCovers_of_accessRange {s : State} {v : Word} {i : Instr} {r : Region} (hd : decode? v = some i)
    (hr : s.accessRange i = some r) : s.issueCovers v = coversSideFx s.cfg r := by
  simp only [State.issueCovers, hd, hr]

/-- A word written to CMD of an idle engine is issued (40_command.md R110). -/
theorem busStore_cmd_of_idle {s : State} (hb : s.busy = false) (v : Word) :
    busStore s (s.cfg.coreBase + 0x010) .word v = .next (s.issue v) := by
  have h := busStore_reg s .cmd v
  rwa [State.regWrite, unlessBusy_of_idle hb] at h

/-- Settles O18: an issue adds HOST_SIDEFX exactly where `issueCovers` finds a side-effect byte in the range. -/
theorem sideEffectRangeIsRecorded : Obligations.SideEffectRangeIsRecorded := by
  intro s v i r hf hb hd hr
  refine ⟨s.issue v, busStore_cmd_of_idle hb v, ?_⟩
  rw [issue_hostFaults, hf, issueCovers_of_accessRange hd hr, ← coversSideFx_iff]
  cases coversSideFx s.cfg r <;> simp [HostFaults.empty]

/-! ## Table entries (20_memory.md R62) -/

/-- A 16-bit value is its low byte and its high byte. -/
theorem half_eq_bytes (v : Half) :
    v = (v.extractLsb' 0 8).setWidth 16 ||| (v.extractLsb' 8 8).setWidth 16 <<< 8 := by
  ext i hi
  by_cases h : i < 8
  · simp [h, BitVec.getLsbD_eq_getElem hi]
  · have hhigh : i - 8 < 8 := by omega
    have hback : 8 + (i - 8) = i := by omega
    simp [h, hhigh, hback, BitVec.getLsbD_eq_getElem hi]

theorem readEntry_eq_bytes (m : Memory) (a : Nat) :
    readEntry m a = (readByte m a).setWidth 16 ||| (readByte m (a + 1)).setWidth 16 <<< 8 := by
  have hlow : (readEntry m a).extractLsb' 0 8 = readByte m a := entryByte_readEntry (d := 0) (by omega)
  have hhigh : (readEntry m a).extractLsb' 8 8 = readByte m (a + 1) := entryByte_readEntry (d := 1) (by omega)
  rw [← hlow, ← hhigh]
  exact half_eq_bytes _

theorem memRead_lt (m : Memory) (n : Nat) : ∀ a, memRead m a n < 256 ^ n := by
  induction n with
  | zero => intro a; exact Nat.one_pos
  | succ n ih =>
    intro a
    have hbyte := (readByte m a).isLt
    have hrest := ih (a + 1)
    simp only [memRead, Nat.pow_succ]
    omega

/-- A 32-bit group is an entry and the next one. -/
theorem memRead_four (m : Memory) (a : Nat) : memRead m a 4 = memRead m a 2 + 65536 * memRead m (a + 2) 2 := by
  simp only [memRead]
  ring

/-- The two halves of a word read from memory are the two entries. -/
theorem entries_of_memRead (m : Memory) (a : Nat) :
    (BitVec.ofNat 32 (memRead m a 4)).extractLsb' 0 16 = readEntry m a ∧
    (BitVec.ofNat 32 (memRead m a 4)).extractLsb' 16 16 = readEntry m (a + 2) := by
  have hlow := memRead_lt m 2 a
  have hhigh := memRead_lt m 2 (a + 2)
  simp only [readEntry, ← BitVec.toNat_inj, BitVec.extractLsb'_toNat, BitVec.toNat_ofNat, memRead_four,
    Nat.shiftRight_eq_div_pow]
  omega

/-! ## A host access of plain memory (20_memory.md R73, R74) -/

theorem target_of_plainMemory {c : Config} {a : Nat} {w : Width} (h : PlainMemory c a w.bytes) :
    target c a w = .memory := by
  obtain ⟨hfits, hwindow, hside⟩ := h
  exact target_eq_memory hfits (Bool.eq_false_iff.2 (mt window_meets_iff.1 hwindow)) hside

theorem busLoad_of_plainMemory {s : State} {a : Nat} {w : Width} (h : PlainMemory s.cfg a w.bytes) :
    busLoad s a w = .next (s.loadMem a w.bytes) := by
  simp only [busLoad, target_of_plainMemory h]

theorem busStore_of_plainMemory {s : State} {a : Nat} {w : Width} (h : PlainMemory s.cfg a w.bytes) (v : Word) :
    busStore s a w v = .next (s.storeMem a w.bytes v) := by
  simp only [busStore, target_of_plainMemory h]

theorem slidTable_eq_some_iff {s : State} {r : Region} : s.slidTable = some r ↔
    s.busy = true ∧ decode? s.cmd = some .slide ∧ s.accessRange .slide = some r := by
  refine ⟨slidTable_some, fun ⟨hb, hd, hr⟩ => ?_⟩
  simp only [State.slidTable, hb, hd, if_true, hr]

theorem slidTable_eq_none {s : State} (h : s.busy = false ∨ decode? s.cmd ≠ some .slide) : s.slidTable = none := by
  refine Option.eq_none_iff_forall_ne_some.2 fun r hr => ?_
  obtain ⟨hb, hd, -⟩ := slidTable_some hr
  obtain h | h := h
  · exact nomatch h.symm.trans hb
  · exact h hd

/-- Settles O40: an entry is its two bytes, and a host's word of memory is two entries. -/
theorem entriesAreLittleEndian : Obligations.EntriesAreLittleEndian := by
  refine ⟨fun m a v hm ha => ⟨readEntry_eq_bytes m a, ?_, ?_⟩,
    fun s a _ hp hidle => ⟨s.loadMem a 4, busLoad_of_plainMemory hp, ?_⟩⟩
  · rw [readByte_writeEntry hm ha, if_pos (by omega), Nat.sub_self]; rfl
  · rw [readByte_writeEntry hm ha, if_pos (by omega), Nat.add_sub_cancel_left]; rfl
  · simp only [State.loadMem, hostBytes_eq_memRead (slidTable_eq_none hidle)]
    exact entries_of_memRead s.mem a

/-! ## Owned bytes (20_memory.md R73) -/

theorem ownedRange_holds_iff {s : State} {x : Nat} : (∃ r, s.ownedRange = some r ∧ r.holds x = true) ↔
    s.busy = true ∧
    ((decode? s.cmd = some .adlerUpd ∧ s.src.toNat ≤ x ∧ x < s.src.toNat + s.len.toNat) ∨
     (decode? s.cmd = some .slide ∧ s.tbl.toNat ≤ x ∧ x < s.tbl.toNat + 2 * s.count.toNat)) := by
  unfold State.ownedRange
  cases s.busy
  · simp
  · rcases decode? s.cmd with _ | _ | _ | _ <;> simp [Region.holds_iff, State.dataRange, State.tableRange]

theorem racesAt_iff_owned {s : State} {a n : Nat} : s.racesAt a n = true ↔ Owned s a n := by
  rw [racesAt_iff]
  constructor
  · rintro ⟨r, hr, x, hx, hrange⟩
    obtain ⟨hb, hown⟩ := ownedRange_holds_iff.1 ⟨r, hr, hx⟩
    exact ⟨hb, x, hrange, hown⟩
  · rintro ⟨hb, x, hrange, hown⟩
    obtain ⟨r, hr, hx⟩ := ownedRange_holds_iff.2 ⟨hb, hown⟩
    exact ⟨r, hr, x, hx, hrange⟩

@[simp] theorem storeMem_mem (s : State) (a n : Nat) (v : Word) :
    (s.storeMem a n v).mem = memWrite s.mem a n v.toNat := rfl

theorem storeMem_hostRace (s : State) (a n : Nat) (v : Word) :
    (s.storeMem a n v).hostFaults.hostRace = (s.racesAt a n || s.hostFaults.hostRace) := by
  cases h : s.racesAt a n <;> simp [State.storeMem, h]

/-- A store that touches no owned byte changes memory alone. -/
theorem storeMem_of_not_racesAt {s : State} {a n : Nat} (h : s.racesAt a n = false) (v : Word) :
    s.storeMem a n v = { s with mem := memWrite s.mem a n v.toNat } := by
  simp [State.storeMem, h]

/-- Settles O41: the store of `storeMem`, whose test for an owned byte is `racesAt`. -/
theorem hostStoreAndRace : Obligations.HostStoreAndRace := by
  intro s a w v hf hm hp
  refine ⟨s.storeMem a w.bytes v, busStore_of_plainMemory hp v, ?_, fun hn => ⟨?_, fun i hi => ?_, fun b hb => ?_⟩⟩
  · rw [storeMem_hostRace, hf, ← racesAt_iff_owned]; simp [HostFaults.empty]
  · rw [storeMem_of_not_racesAt (Bool.eq_false_iff.2 (mt racesAt_iff_owned.1 hn))]
  · rw [storeMem_mem, readByte_memWrite hm hp.1, if_pos (by omega), Nat.add_sub_cancel_left, BitVec.toNat_ofNat]
  · rw [storeMem_mem, readByte_memWrite hm hp.1, if_neg hb]

/-! ## What a host reads of a table being slid (20_memory.md R74) -/

theorem engineTurn_slide {s : State} (hb : s.busy = true) (hd : decode? s.cmd = some .slide) :
    engineTurn s = execSlide s := by
  have hd' : decode s.cmd = .ok .slide := by
    unfold decode? at hd
    split at hd
    · next i hi => exact hi.trans (congrArg _ (Option.some.inj hd))
    · cases hd
  simp only [engineTurn, hb, if_true, hd', exec]

/-- A SLIDE whose turn leaves the engine busy waits for an access that is never answered (40_command.md R116). -/
theorem tableReply_of_execSlide_stuck {s : State} (hb : s.busy = true) (h : execSlide s = .next s) :
    s.tableReply = .hang := by
  obtain ⟨-, k⟩ | ⟨-, -, k⟩ | ⟨-, -, -, k⟩ | ⟨-, -, -, -, k⟩ | ⟨e, -, -, -, -, k⟩ | ⟨-, -, -, hreply, -⟩ :=
    execSlide_cases h
  case inr.inr.inr.inr.inr => exact hreply
  all_goals exact nomatch hb.symm.trans (congrArg State.busy (Host.Outcome.next.inj k))

/-- The engine's turn ends the SLIDE, whose completion leaves `endByte`, or is stuck, where `endByte` is the slid
value. -/
theorem endByte_cases {s : State} {r : Region} {a : Nat} (hm : Memory.wf s.mem = true) (hs : s.slidTable = some r)
    (ha : r.holds a = true) : ∃ u, engineTurn s = .next u ∧
      ((u.busy = false ∧ s.endByte a = readByte u.mem a) ∨
       (u = s ∧ s.endByte a = readByte (slideFrom s.mem s.wsize s.tbl.toNat s.count.toNat) a)) := by
  obtain ⟨hbusy, hd, hr⟩ := slidTable_some hs
  obtain ⟨u, hu⟩ := engineTurn_next s
  refine ⟨u, hu, ?_⟩
  obtain rfl | ⟨-, hend⟩ := engineTurn_ends hu
  · rw [engineTurn_slide hbusy hd] at hu
    obtain ⟨rfl, -, hf, -⟩ := accessRange_slide hr
    obtain ⟨h1, h2⟩ := Region.holds_iff.1 ha
    refine .inr ⟨rfl, ?_⟩
    rw [State.endByte, tableReply_of_execSlide_stuck hbusy hu]
    exact slidByte_eq hm hf h1 h2
  · have hb : u.busy = false := by cases hend <;> rfl
    exact .inl ⟨hb, (engineTurn_endByte hm hs ha hu hb).symm⟩

/-- A host reads of a byte its value or, where a SLIDE updates it, `endByte`. -/
theorem hostByte_cases (s : State) (k a : Nat) : s.hostByte k a = readByte s.mem a ∨
    ∃ r, s.slidTable = some r ∧ r.holds a = true ∧ s.hostByte k a = s.endByte a := by
  unfold State.hostByte
  cases s.slidTable with
  | none => exact .inl rfl
  | some r =>
    by_cases h : (r.holds a && Config.freeBit k a) = true
    · exact .inr ⟨r, rfl, (Bool.and_eq_true_iff.1 h).1, if_pos h⟩
    · exact .inl (if_neg h)

/-- A load of at most four bytes fits the word it returns. -/
theorem loadMem_readData_toNat (s : State) (a : Nat) (w : Width) :
    (s.loadMem a w.bytes).readData.toNat = s.hostBytes s.draws a w.bytes := by
  have hlt := hostBytes_lt s s.draws w.bytes a
  have hle : 256 ^ w.bytes ≤ 2 ^ 32 := by cases w <;> decide
  exact Nat.mod_eq_of_lt (hlt.trans_le hle)

/-- Settles O42: a load reads `hostByte` byte by byte; its early value, `endByte`, is what the engine's turn leaves. -/
theorem hostLoadWhileBusy : Obligations.HostLoadWhileBusy := by
  intro s a w _ hm hp
  refine ⟨s.loadMem a w.bytes, busLoad_of_plainMemory hp, rfl, ?_, fun i hi => ?_⟩
  · rw [loadMem_readData_toNat]; exact hostBytes_lt s s.draws w.bytes a
  · rw [loadMem_readData_toNat, hostBytes_byte s s.draws w.bytes a i hi]
    obtain h | ⟨r, hs, ha, h⟩ := hostByte_cases s s.draws (a + i)
    · exact .inl h
    · obtain ⟨hbusy, hd, hr⟩ := slidTable_some hs
      obtain ⟨u, hu, hend⟩ := endByte_cases hm hs ha
      exact .inr ⟨r, u, hbusy, hd, hr, ha, hu, by rw [h]; exact hend⟩

/-! ## Where memory changes (20_memory.md R68, R83) -/

/-- The engine changes a byte only in the table it slides. -/
theorem slidTable_of_engineTurn_readByte_ne {s t : State} {a : Nat} (hm : Memory.wf s.mem = true)
    (h : engineTurn s = .next t) (hne : readByte t.mem a ≠ readByte s.mem a) :
    ∃ r, s.slidTable = some r ∧ r.holds a = true := by
  obtain rfl | ⟨hb, rfl | ⟨c, x, -, rfl⟩ | ⟨rfl, -⟩ | ⟨e, rfl, -⟩ | ⟨hd, hr, ht⟩⟩ := engineTurn_cases h
  case inr.inr.inr.inr.inr =>
    refine ⟨s.tableRange, slidTable_eq_some_iff.2 ⟨hb, decode?_of_ok hd, hr⟩, ?_⟩
    obtain ⟨-, -, hf, -⟩ := accessRange_slide hr
    by_contra hout
    have hout' := mt Region.holds_iff.2 hout
    apply hne
    obtain rfl | ⟨e, rfl⟩ := ht
    · exact readByte_slideFrom_outside hm hf a hout'
    · exact (readByte_mixedMem hm hf a).trans (if_neg hout')
  all_goals exact absurd rfl hne

/-- A reset changes a byte only in the table of the SLIDE it abandons. -/
theorem slidTable_of_resetTurn_readByte_ne {s : State} {a : Nat} (hm : Memory.wf s.mem = true)
    (hne : readByte (resetTurn s).mem a ≠ readByte s.mem a) : ∃ r, s.slidTable = some r ∧ r.holds a = true := by
  unfold resetTurn at hne
  cases hs : s.slidTable with
  | none => rw [hs] at hne; exact absurd rfl hne
  | some r =>
    rw [hs] at hne
    obtain ⟨-, -, hr⟩ := slidTable_some hs
    obtain ⟨rfl, -, hf, -⟩ := accessRange_slide hr
    refine ⟨_, rfl, ?_⟩
    by_contra hout
    exact hne ((readByte_mixedMem hm hf a).trans (if_neg (mt Region.holds_iff.2 hout)))

theorem busLoad_mem {s u : State} {a : Nat} {w : Width} (h : busLoad s a w = .next u) : u.mem = s.mem := by
  obtain rfl | ⟨v, rfl⟩ | ⟨-, rfl⟩ := busLoad_cases h <;> rfl

/-- A store that records no host fault and changes a byte stores that byte, no owned one, and does nothing else. -/
theorem busStore_readByte_ne {s u : State} {a x : Nat} {w : Width} {v : Word} (hm : Memory.wf s.mem = true)
    (h : busStore s a w v = .next u) (hf : u.noHostFault) (hne : readByte u.mem x ≠ readByte s.mem x) :
    (a ≤ x ∧ x < a + w.bytes) ∧ s.racesAt a w.bytes = false ∧
      u = { s with mem := memWrite s.mem a w.bytes v.toNat } := by
  obtain ⟨r, -, -, rfl⟩ | ⟨-, rfl | rfl | ⟨ht, rfl⟩⟩ := busStore_cases h
  · rw [regWrite_mem] at hne; exact absurd rfl hne
  · exact absurd rfl hne
  · exact absurd rfl hne
  · have hraces : s.racesAt a w.bytes = false := by
      have hrace := storeMem_hostRace s a w.bytes v
      rw [hf] at hrace
      exact (Bool.or_eq_false_iff.1 hrace.symm).1
    rw [storeMem_of_not_racesAt hraces] at hne ⊢
    refine ⟨?_, hraces, rfl⟩
    by_contra hout
    exact hne ((readByte_memWrite hm (target_memory ht) x).trans (if_neg hout))

/-- All that can change a byte of memory in a step that ends with no host fault recorded. -/
theorem step_readByte_ne {s t : State} {a : Nat} (hm : Memory.wf s.mem = true) (h : step s = .next t)
    (hf : t.noHostFault) (hne : readByte t.mem a ≠ readByte s.mem a) :
    ((s.turn = .engine ∨ s.turn = .reset) ∧ ∃ r, s.slidTable = some r ∧ r.holds a = true) ∨
    (∃ b w v, s.nextStore = some (b, w, v) ∧ (b ≤ a ∧ a < b + w.bytes) ∧ s.racesAt b w.bytes = false ∧
      t = { s.popTurn with mem := memWrite s.mem b w.bytes v.toNat, host := t.host }) := by
  obtain ⟨hturn, he⟩ | ⟨hturn, rfl⟩ | ⟨-, ⟨b, w, v, u, hn, hst, ht⟩ | ⟨-, u, hu, ht⟩⟩ := step_stores h
  · exact .inl ⟨.inl hturn, slidTable_of_engineTurn_readByte_ne (s := s.popTurn) hm he hne⟩
  · exact .inl ⟨.inr hturn, slidTable_of_resetTurn_readByte_ne (s := s.popTurn) hm hne⟩
  · rw [ht] at hf hne
    obtain ⟨hin, hraces, rfl⟩ := busStore_readByte_ne (s := s.popTurn) (u := u) hm hst hf hne
    exact .inr ⟨b, w, v, hn, hin, hraces, ht⟩
  · have hmem : u.mem = s.mem := by
      obtain rfl | ⟨b, w, hl⟩ := hu
      · rfl
      · exact busLoad_mem (s := s.popTurn) hl
    rw [ht] at hne
    exact absurd (congrArg (readByte · a) hmem) hne

/-- Settles O37: `step_readByte_ne`, with the table of the SLIDE spelled out. -/
theorem memoryChangesOnlyWhereWritten : Obligations.MemoryChangesOnlyWhereWritten := by
  intro s t a hm h hf hne
  obtain ⟨hturn, r, hs, ha⟩ | ⟨b, w, v, hn, hin, -, ht⟩ := step_readByte_ne hm h hf hne
  · obtain ⟨hb, hd, hr⟩ := slidTable_some hs
    exact .inl ⟨hturn, hb, hd, r, hr, ha⟩
  · exact .inr ⟨b, w, v, hn, hin, ht⟩

/-! ## What a busy command owns (20_memory.md R83, 40_command.md R112) -/

theorem HostMoves.not_engine_or_reset {s : State} (h : HostMoves s) : ¬ (s.turn = .engine ∨ s.turn = .reset) := by
  obtain h | ⟨x, h⟩ := h <;> simp [h]

/-- The registers a busy command works from: BUSY, CMD and its operands. -/
def State.Latched (s t : State) : Prop :=
  t.busy = s.busy ∧ t.cmd = s.cmd ∧ t.acc = s.acc ∧ t.src = s.src ∧ t.len = s.len ∧ t.tbl = s.tbl ∧
  t.count = s.count ∧ t.wsize = s.wsize

theorem regWrite_latched {s : State} (hb : s.busy = true) (r : Reg) (v : Word) : s.Latched (s.regWrite r v) := by
  obtain e | e | e | ⟨-, e⟩ | ⟨hidle, -⟩ := regWrite_cases s r v
  case inr.inr.inr.inr => exact nomatch hb.symm.trans hidle
  all_goals rw [e]; simp [State.Latched]

theorem step_latched {s t : State} (hb : s.busy = true) (hmoves : HostMoves s) (h : step s = .next t) :
    s.Latched t := by
  cases step_effect h with
  | keep u => exact ⟨rfl, rfl, rfl, rfl, rfl, rfl, rfl, rfl⟩
  | ends hturn _ _ => exact absurd (.inl hturn) hmoves.not_engine_or_reset
  | reset hturn => exact absurd (.inr hturn) hmoves.not_engine_or_reset
  | write r v host _ => exact regWrite_latched (s := s.popTurn) hb r v

/-- Settles O39: of all that changes a byte, only a store is a host's, and one to an owned byte would record HOST_RACE;
of all that changes a register, a busy engine lets no write through to the command's. -/
theorem ownedBytesHoldUntilCompletion : Obligations.OwnedBytesHoldUntilCompletion := by
  intro s t r hm h hf hmoves hb hr
  obtain ⟨hbusy, hrest⟩ := step_latched hb hmoves h
  refine ⟨fun a ha => ?_, hbusy.trans hb, hrest⟩
  by_contra hne
  obtain ⟨hturn, -⟩ | ⟨b, w, v, -, hin, hraces, -⟩ := step_readByte_ne hm h hf hne
  · exact hmoves.not_engine_or_reset hturn
  · exact nomatch hraces.symm.trans (racesAt_iff.2 ⟨r, hr, a, ha, hin⟩)

end Sys2Proof.Machine
end

/-! The proofs of the family 30_encoding: the decoder reads a command from its own word and from no other (R90 to R95),
and the register operations of a host program (R99). -/
section
namespace Sys2Proof

/-! ## A word and its two fields (30_encoding.md R90) -/

/-- RSV and OPCODE are all of a word. -/
theorem rsvField_append_opcodeField (v : Word) : rsvField v ++ opcodeField v = v :=
  (BitVec.extractLsb'_append_extractLsb'_eq_extractLsb' rfl).trans BitVec.extractLsb'_eq_self

theorem eq_of_fields_eq {u v : Word} (hrsv : rsvField u = rsvField v) (hop : opcodeField u = opcodeField v) :
    u = v := by
  rw [← rsvField_append_opcodeField u, hrsv, hop, rsvField_append_opcodeField]

/-! ## The opcode map and the words of the commands (30_encoding.md R93) -/

/-- The fields of every command's word: RSV is 0, and the opcode map takes OPCODE back to the command. -/
theorem oneOpcode (i : Instr) : Laws.OneOpcode.Statement i := by
  cases i with
  | nop => exact Laws.OneOpcode.nop
  | adlerUpd => exact Laws.OneOpcode.adlerUpd
  | slide => exact Laws.OneOpcode.slide

/-- The opcode map gives a command to no opcode but that of the command's word. -/
theorem eq_opcodeField_encode {op : BitVec 8} {i : Instr} (h : opcodeOf op = some i) : op = opcodeField (encode i) := by
  unfold opcodeOf at h
  split_ifs at h with hop hop hop <;> cases h <;> exact hop

/-! ## The decoder (30_encoding.md R90, R93 to R95) -/

/-- The decoder gives a command where RSV is 0 and OPCODE is an opcode of the map. -/
theorem decode?_eq_some_iff_fields {v : Word} {i : Instr} :
    decode? v = some i ↔ rsvField v = 0#24 ∧ opcodeOf (opcodeField v) = some i := by
  unfold decode? decode
  by_cases hrsv : rsvField v = 0#24
  · cases opcodeOf (opcodeField v) <;> simp [hrsv]
  · simp [hrsv]

/-- A command is read from its own word, and from no other. -/
theorem decode?_eq_some_iff {v : Word} {i : Instr} : decode? v = some i ↔ v = encode i := by
  obtain ⟨hrsvEnc, hopEnc⟩ := oneOpcode i
  constructor
  · intro h
    obtain ⟨hrsv, hop⟩ := decode?_eq_some_iff_fields.1 h
    exact eq_of_fields_eq (hrsv.trans hrsvEnc.symm) (eq_opcodeField_encode hop)
  · rintro rfl
    exact decode?_eq_some_iff_fields.2 ⟨hrsvEnc, hopEnc⟩

/-- A word that is no command's is illegal. -/
theorem decode?_eq_none {v : Word} (h : ∀ i, v ≠ encode i) : decode? v = none :=
  Option.eq_none_iff_forall_ne_some.2 fun i hi => h i (decode?_eq_some_iff.1 hi)

/-- Settles O2: RSV and OPCODE make up a word, and each command has one opcode, so the fields of a word that decodes to
a command are those of the command's word. -/
theorem decodeEncodeAgree : Obligations.DecodeEncodeAgree :=
  fun _ _ _ => decode?_eq_some_iff

/-- The decoder as the table of R95. -/
theorem decode?_eq_table (v : Word) : decode? v =
    if v = 0x00000000#32 then some .nop
    else if v = 0x00000001#32 then some .adlerUpd
    else if v = 0x00000002#32 then some .slide
    else none := by
  split_ifs with hnop hadler hslide
  · exact decode?_eq_some_iff.2 hnop
  · exact decode?_eq_some_iff.2 hadler
  · exact decode?_eq_some_iff.2 hslide
  · refine decode?_eq_none fun i => ?_
    cases i with
    | nop => exact hnop
    | adlerUpd => exact hadler
    | slide => exact hslide

/-- Settles O1: the table is `decode?_eq_table`; the store is the write of CMD, which an idle engine accepts. -/
theorem decodeIsTheWordTable : Obligations.DecodeIsTheWordTable := by
  refine ⟨decode?_eq_table, fun s v _ hb => ⟨_, Machine.busStore_reg s .cmd v, ?_, ?_⟩⟩
  · rw [Machine.regWrite_cmd, if_pos ⟨rfl, hb⟩]
  · rw [Machine.regWrite_busy, decide_eq_true rfl, Bool.or_true]

/-- Settles O3: seven words, each decoded. -/
theorem wordsDecodeAsTheSpecSays : Obligations.WordsDecodeAsTheSpecSays := by
  unfold Obligations.WordsDecodeAsTheSpecSays
  decide

namespace Machine

/-! ## The register operations of a host program (30_encoding.md R99) -/

/-- A host register after a write of a host register. -/
theorem hostReg_setHostReg {s : State} (hr : mapWf s.host.regs = true) (rn k : Nat) (v : Word) :
    (s.setHostReg rn v).hostReg k = if k = rn then v else s.hostReg k :=
  readAt_writeAt hr rn k v

/-- The host's wait sees IRQ, on its line. -/
theorem irqInput_irqLine (s : State) : s.irqInput s.cfg.irqLine = s.irq := by
  simp [State.irqInput]

theorem hostWr_eq (s : State) (r : Reg) (v : Word) : hostWr s r v = .next (s.regWrite r v).advance := by
  simp only [hostWr, busStore_reg, andThen]

theorem hostRd_eq (s : State) (r : Reg) (rn : Nat) : hostRd s r rn =
    .next (State.setHostReg { s with readData := s.regRead r } rn (s.regRead r)).advance := by
  simp only [hostRd, busLoad_reg, andThen]

theorem hostPoll_eq (s : State) (r : Reg) (mask val : Word) : hostPoll s r mask val = .next { s with
    readData := s.regRead r
    host := if s.regRead r &&& mask = val then { s.host with pos := s.host.pos + 1 } else s.host } := by
  simp only [hostPoll, busLoad_reg, andThen]
  split <;> rfl

theorem execHostOp_waitIrq (s : State) : execHostOp .waitIrq s = .next { s with
    host := if s.irq then { s.host with pos := s.host.pos + 1 } else s.host } := by
  simp only [execHostOp, irqInput_irqLine]
  split <;> rfl

/-- What `rd` leaves: the register in its host register, and the next operation. -/
theorem hostRd_spec {s : State} (hr : mapWf s.host.regs = true) (r : Reg) (rn : Nat) :
    ∃ t, hostRd s r rn = .next t ∧ t.hostReg rn = s.regRead r ∧ (∀ k, k ≠ rn → t.hostReg k = s.hostReg k) ∧
      t = { s with readData := s.regRead r, host := { s.host with regs := t.host.regs, pos := s.host.pos + 1 } } := by
  have hread : ∀ k, (State.setHostReg { s with readData := s.regRead r } rn (s.regRead r)).advance.hostReg k
      = if k = rn then s.regRead r else s.hostReg k :=
    fun k => hostReg_setHostReg hr rn k (s.regRead r)
  exact ⟨_, hostRd_eq s r rn, (hread rn).trans (if_pos rfl), fun k hk => (hread k).trans (if_neg hk), rfl⟩

/-- Settles O43: each operation is one access at the register's own address, then a change of the host alone. -/
theorem hostRegisterOperations : Obligations.HostRegisterOperations := by
  intro s r v mask val rn _ hr
  exact ⟨hostWr_eq s r v, hostWr_eq s r (s.hostReg rn), hostRd_spec hr r rn, hostPoll_eq s r mask val,
    execHostOp_waitIrq s⟩

end Machine

end Sys2Proof
end

/-! The proofs of the family 40_command: the issue of a word (R110), the decode of the latched word (R111), how a command
ends (R114, R115) and when it does not (R116), NOP (R117) and illegal words (R118). -/
section
namespace Sys2Proof.Machine

/-! ## Issue (40_command.md R110; 10_state.md R43) -/

/-- A word written to CMD of a busy engine is dropped (10_state.md R43). -/
theorem busStore_cmd_of_busy {s : State} (hb : s.busy = true) (v : Word) :
    busStore s (s.cfg.coreBase + 0x010) .word v = .next s.dropWrite :=
  (busStore_reg s .cmd v).trans (congrArg _ (regWrite_of_busy hb (by decide) v))

/-- With no host fault recorded before, an issue is the latch of the word and the record of `issueCovers`. -/
theorem issue_eq_of_noHostFault {s : State} (hf : s.noHostFault) (v : Word) : s.issue v =
    { s.latch v with hostFaults := { s.hostFaults with hostSideFx := s.issueCovers v } } := by
  unfold State.issue
  split
  · next hc => rw [hc]; rfl
  · next hc =>
    have hnone : { s.hostFaults with hostSideFx := false } = s.hostFaults := by rw [hf]; rfl
    rw [Bool.eq_false_of_not_eq_true hc, hnone]; rfl

/-- Settles O17: an idle engine issues the word, a busy one drops the write. -/
theorem issueLatchesTheWord : Obligations.IssueLatchesTheWord := by
  intro s v hf
  refine ⟨fun hb => ?_, fun hb => busStore_cmd_of_busy hb v⟩
  rw [busStore_cmd_of_idle hb, issue_eq_of_noHostFault hf]
  rfl

theorem issue_of_not_issueCovers {s : State} {v : Word} (h : s.issueCovers v = false) : s.issue v = s.latch v := by
  simp [State.issue, h]

/-! ## The engine runs the latched word (40_command.md R111) -/

theorem decode_of_decode? {v : Word} {i : Instr} (h : decode? v = some i) : decode v = .ok i := by
  unfold decode? at h
  split at h
  · next j hj => rw [hj, Option.some.inj h]
  · cases h

theorem engineTurn_of_decode? {s : State} {i : Instr} (hb : s.busy = true) (hd : decode? s.cmd = some i) :
    engineTurn s = exec i s := by
  simp only [engineTurn, hb, if_true, decode_of_decode? hd]

theorem engineTurn_of_illegal {s : State} (hb : s.busy = true) (hd : decode? s.cmd = none) :
    engineTurn s = execIllegal s := by
  simp only [engineTurn, hb, if_true]
  split
  · next i hi => exact nomatch hd.symm.trans (decode?_of_ok hi)
  · rfl

theorem engineTurn_of_idle {s : State} (hb : s.busy = false) : engineTurn s = .next s := by
  simp [engineTurn, hb]

theorem step_of_turn_engine {s : State} (ht : s.turn = .engine) : step s = engineTurn s.popTurn := by
  simp only [step, ht, takeTurn]

/-- Taking the engine's turn off the schedule of a fetching machine leaves the issue. -/
theorem popTurn_fetching (s : State) (v : Word) : (s.fetching v).popTurn = s.issue v := by
  unfold State.fetching State.issue
  split <;> rfl

/-- Settles O8: the step at the engine's turn is `engineTurn`, which decodes CMD; a fetched word is in CMD. -/
theorem stepRunsTheLatchedCommand : Obligations.StepRunsTheLatchedCommand := by
  intro s i
  refine ⟨fun ht hb hd => step_engine ht hb (decode_of_decode? hd), fun ht hb => ?_, ?_⟩
  · rw [step_of_turn_engine ht, engineTurn_of_idle (s := s.popTurn) hb]
  · have hfetch : s.withFetchWord 32 (encode i).toNat = s.fetching (encode i) := by
      rw [State.withFetchWord, Nat.mod_eq_of_lt (encode i).isLt, BitVec.ofNat_toNat, BitVec.setWidth_eq]
    rw [hfetch, step_of_turn_engine rfl, popTurn_fetching]
    exact engineTurn_of_decode? (State.issue_busy s _)
      (decode?_eq_some_iff.2 (State.issue_cmd s _))

/-! ## NOP and illegal words (40_command.md R117, R118) -/

theorem issueCovers_nop (s : State) : s.issueCovers 0x00000000#32 = false := by
  have hd : decode? 0x00000000#32 = some .nop := decode?_eq_some_iff.2 rfl
  simp only [State.issueCovers, hd, State.accessRange]

theorem issueCovers_illegal {s : State} {v : Word} (hd : decode? v = none) : s.issueCovers v = false := by
  simp only [State.issueCovers, hd]

/-- Settles O9: NOP accesses nothing, so its issue is the latch alone; its turn is `execNop`. -/
theorem nopCompletes : Obligations.NopCompletes := by
  intro s _
  refine ⟨rfl, fun hb => ?_⟩
  have hissue := busStore_cmd_of_idle hb 0x00000000#32
  rw [issue_of_not_issueCovers (issueCovers_nop s)] at hissue
  refine ⟨_, _, hissue, statusWord_busy _, rfl, rfl, rfl, rfl,
    engineTurn_of_decode? (s := s.latch 0x00000000#32) rfl (decode?_eq_some_iff (i := .nop).2 rfl), rfl, ?_⟩
  rw [← BitVec.toNat_inj, statusWord_toNat]
  cases hovr : s.ovr <;> simp [hovr, ErrCode.code]

/-- The words above SLIDE's are no command's (30_encoding.md R95). -/
theorem decode?_of_two_lt {v : Word} (h : 0x00000002#32 < v) : decode? v = none := by
  refine decode?_eq_none fun i => ?_
  rintro rfl
  cases i <;> exact absurd h (by decide)

/-- Settles O10: an illegal word accesses nothing, so its issue is the latch alone; its turn is `execIllegal`. -/
theorem illegalWordCompletesWithError : Obligations.IllegalWordCompletesWithError := by
  intro s v _ hv
  have hd := decode?_of_two_lt hv
  refine ⟨fun hb => ?_, fun hb => busStore_cmd_of_busy hb v⟩
  have hissue := busStore_cmd_of_idle hb v
  rw [issue_of_not_issueCovers (issueCovers_illegal hd)] at hissue
  exact ⟨_, hissue, rfl, rfl, engineTurn_of_illegal (s := s.latch v) rfl hd⟩

/-! ## The end of a command (40_command.md R114, R115) -/

theorem CommandEnd.busy_done {s t : State} (h : CommandEnd s t) : t.busy = false ∧ t.done = true := by
  cases h <;> exact ⟨rfl, rfl⟩

/-- What the end of a command leaves: CMD, OVR, CTRL and the operand registers but ACC. -/
theorem CommandEnd.frame {s t : State} (h : CommandEnd s t) : t.cmd = s.cmd ∧ t.ovr = s.ovr ∧
    t.ctrlWord = s.ctrlWord ∧ t.src = s.src ∧ t.len = s.len ∧ t.tbl = s.tbl ∧ t.count = s.count ∧
    t.wsize = s.wsize := by
  cases h <;> exact ⟨rfl, rfl, rfl, rfl, rfl, rfl, rfl, rfl⟩

/-- No error to report: the error registers are as they were (R114). -/
def State.KeepsError (s t : State) : Prop := t.err = s.err ∧ t.errcode = s.errcode ∧ t.erraddr = s.erraddr

/-- An error of a command's own, not ILLEGAL_CMD (R115). -/
def State.ReportsOwnError (s t : State) : Prop :=
  t.err = true ∧ t.errcode ≠ .none ∧ t.errcode ≠ .illegalCmd ∧ t.acc = s.acc

theorem State.KeepsError.refl (s : State) : s.KeepsError s := ⟨rfl, rfl, rfl⟩

theorem execAdlerUpd_report {s t : State} (h : execAdlerUpd s = .next t) :
    s.KeepsError t ∨ s.ReportsOwnError t := by
  obtain ⟨-, k⟩ | ⟨-, -, k⟩ | ⟨-, -, -, k⟩ | ⟨e, -, -, -, k⟩ | ⟨-, -, -, k⟩ := execAdlerUpd_cases h <;> cases k
  · exact .inr ⟨rfl, nofun, nofun, rfl⟩
  · exact .inl ⟨rfl, rfl, rfl⟩
  · exact .inl ⟨rfl, rfl, rfl⟩
  · exact .inr ⟨rfl, nofun, nofun, rfl⟩
  · exact .inl (.refl s)

theorem execSlide_report {s t : State} (h : execSlide s = .next t) : s.KeepsError t ∨ s.ReportsOwnError t := by
  obtain ⟨-, k⟩ | ⟨-, -, k⟩ | ⟨-, -, -, k⟩ | ⟨-, -, -, -, k⟩ | ⟨e, -, -, -, -, k⟩ | ⟨-, -, -, -, k⟩ :=
    execSlide_cases h <;> cases k
  · exact .inr ⟨rfl, nofun, nofun, rfl⟩
  · exact .inr ⟨rfl, nofun, nofun, rfl⟩
  · exact .inl ⟨rfl, rfl, rfl⟩
  · exact .inl ⟨rfl, rfl, rfl⟩
  · exact .inr ⟨rfl, nofun, nofun, rfl⟩
  · exact .inl (.refl s)

theorem exec_report {i : Instr} {s t : State} (h : exec i s = .next t) : s.KeepsError t ∨ s.ReportsOwnError t := by
  cases i with
  | nop => cases h; exact .inl ⟨rfl, rfl, rfl⟩
  | adlerUpd => exact execAdlerUpd_report h
  | slide => exact execSlide_report h

/-- ILLEGAL_CMD comes with an undecodable word only, and writes no ERRADDR. -/
theorem engineTurn_report {s t : State} (hb : s.busy = true) (h : engineTurn s = .next t) :
    s.KeepsError t ∨ (t.err = true ∧ t.errcode ≠ .none ∧ t.acc = s.acc ∧
      (t.errcode = .illegalCmd → t.erraddr = s.erraddr ∧ decode? s.cmd = none)) := by
  cases hd : decode? s.cmd with
  | none =>
    rw [engineTurn_of_illegal hb hd] at h
    cases h
    exact .inr ⟨rfl, nofun, rfl, fun _ => ⟨rfl, rfl⟩⟩
  | some i =>
    rw [engineTurn_of_decode? hb hd] at h
    exact (exec_report h).imp_right fun ⟨herr, hcode, hlegal, hacc⟩ =>
      ⟨herr, hcode, hacc, fun hillegal => absurd hillegal hlegal⟩

/-- Settles O15: the engine's turn that is not stuck is a command's end, with the frame and the report of one. -/
theorem engineTurnEndsTheCommand : Obligations.EngineTurnEndsTheCommand := by
  intro s t _ hb h
  refine (engineTurn_ends h).imp_right fun ⟨_, hend⟩ => ?_
  obtain ⟨hbusy, hdone⟩ := hend.busy_done
  obtain ⟨hcmd, hovr, hctrl, hsrc, hlen, htbl, hcount, hwsize⟩ := hend.frame
  exact ⟨hbusy, hdone, hcmd, hovr, hctrl, hsrc, hlen, htbl, hcount, hwsize, engineTurn_report hb h⟩

/-! ## An access that is never answered (40_command.md R116) -/

/-- The bus's answer to the accesses of command `i` over its range `r`. -/
def State.replyOver (s : State) (i : Instr) (r : Region) : BusReply := busReply s.cfg r.base r.size (accessBytes i)

/-- Command `i` reaches an access that is never answered before any that fails. -/
def State.Stuck (s : State) (i : Instr) : Prop := ∃ r, s.accessRange i = some r ∧ s.replyOver i r = .hang

theorem accessRange_adlerUpd_iff {s : State} {r : Region} : s.accessRange .adlerUpd = some r ↔
    s.dataFits = true ∧ s.len ≠ 0#32 ∧ s.dataRange = r := by
  simp [State.accessRange, and_assoc]

theorem accessRange_slide_iff {s : State} {r : Region} : s.accessRange .slide = some r ↔
    s.tblOdd = false ∧ s.tableFits = true ∧ s.count ≠ 0#32 ∧ s.tableRange = r := by
  simp [State.accessRange, and_assoc]

theorem execAdlerUpd_of_stuck {s : State} (h : s.Stuck .adlerUpd) : execAdlerUpd s = .next s := by
  obtain ⟨r, hr, hhang⟩ := h
  obtain ⟨hfits, hlen, rfl⟩ := accessRange_adlerUpd_iff.1 hr
  have hreply : s.dataReply = .hang := hhang
  simp [execAdlerUpd, hfits, hlen, hreply]

theorem execSlide_of_stuck {s : State} (h : s.Stuck .slide) : execSlide s = .next s := by
  obtain ⟨r, hr, hhang⟩ := h
  obtain ⟨heven, hfits, hcount, rfl⟩ := accessRange_slide_iff.1 hr
  have hreply : s.tableReply = .hang := hhang
  simp [execSlide, heven, hfits, hcount, hreply]

theorem exec_of_stuck {s : State} {i : Instr} (h : s.Stuck i) : exec i s = .next s := by
  cases i with
  | nop => obtain ⟨r, hr, -⟩ := h; cases hr
  | adlerUpd => exact execAdlerUpd_of_stuck h
  | slide => exact execSlide_of_stuck h

theorem stuck_of_execAdlerUpd {s : State} (hb : s.busy = true) (h : execAdlerUpd s = .next s) :
    s.Stuck .adlerUpd := by
  obtain ⟨-, k⟩ | ⟨-, -, k⟩ | ⟨-, -, -, k⟩ | ⟨e, -, -, -, k⟩ | ⟨hfits, hlen, hreply, -⟩ := execAdlerUpd_cases h
  case inr.inr.inr.inr => exact ⟨_, accessRange_adlerUpd_iff.2 ⟨hfits, hlen, rfl⟩, hreply⟩
  all_goals exact nomatch hb.symm.trans (congrArg State.busy (Host.Outcome.next.inj k))

theorem stuck_of_execSlide {s : State} (hb : s.busy = true) (h : execSlide s = .next s) : s.Stuck .slide := by
  obtain ⟨-, k⟩ | ⟨-, -, k⟩ | ⟨-, -, -, k⟩ | ⟨-, -, -, -, k⟩ | ⟨e, -, -, -, -, k⟩ |
    ⟨heven, hfits, hcount, hreply, -⟩ := execSlide_cases h
  case inr.inr.inr.inr.inr => exact ⟨_, accessRange_slide_iff.2 ⟨heven, hfits, hcount, rfl⟩, hreply⟩
  all_goals exact nomatch hb.symm.trans (congrArg State.busy (Host.Outcome.next.inj k))

theorem stuck_of_exec {s : State} {i : Instr} (hb : s.busy = true) (h : exec i s = .next s) : s.Stuck i := by
  cases i with
  | nop => exact nomatch hb.symm.trans (congrArg State.busy (Host.Outcome.next.inj h.symm))
  | adlerUpd => exact stuck_of_execAdlerUpd hb h
  | slide => exact stuck_of_execSlide hb h

/-- A busy engine's turn changes nothing only where a command is stuck; an illegal word never is. -/
theorem stuck_of_engineTurn {s : State} (hb : s.busy = true) (h : engineTurn s = .next s) :
    ∃ i, decode? s.cmd = some i ∧ s.Stuck i := by
  cases hd : decode? s.cmd with
  | none =>
    rw [engineTurn_of_illegal hb hd] at h
    exact nomatch hb.symm.trans (congrArg State.busy (Host.Outcome.next.inj h.symm))
  | some i =>
    rw [engineTurn_of_decode? hb hd] at h
    exact ⟨i, rfl, stuck_of_exec hb h⟩

/-- Settles O13: the unanswered access decides the bus's answer, and the command is stuck. -/
theorem unansweredAccessLeavesBusy : Obligations.UnansweredAccessLeavesBusy := by
  intro s i r u _ hb hd hr hu hun hlater
  obtain ⟨hlow, hhigh⟩ := Region.holds_iff.1 hu
  have hreply : s.replyOver i r = .hang :=
    busReply_eq_hang hlow hhigh hun fun x h1 h2 => hlater x (Region.holds_iff.2 ⟨h1, h2⟩)
  rw [engineTurn_of_decode? hb hd, exec_of_stuck ⟨r, hr, hreply⟩]

/-- Settles O14: the engine's turn ends the command or is stuck, and a stuck command has an unanswered byte. -/
theorem answeredCommandCompletes : Obligations.AnsweredCommandCompletes := by
  intro s _ hb hturn hanswered
  obtain ⟨t, ht⟩ := engineTurn_next s.popTurn
  refine ⟨t, (step_of_turn_engine hturn).trans ht, ?_⟩
  obtain rfl | ⟨-, hend⟩ := engineTurn_ends ht
  · obtain ⟨i, hd, r, hr, hhang⟩ := stuck_of_engineTurn (s := s.popTurn) hb ht
    obtain ⟨u, hrange, hun⟩ := busReply_hang hhang
    have hu : r.holds u = true := Region.holds_iff.2 hrange
    exact nomatch hun.symm.trans (hanswered i r u hd hr hu)
  · exact hend.busy_done

end Sys2Proof.Machine
end

/-! The proofs of the family 41_checksum, first layer: arithmetic modulo BASE in 32 bits (41_checksum.md R143 to R146)
and the bounds NMAX and KMAX (R141, R142). -/
section
namespace Sys2Proof.Machine

/-! ## CHOP, MODRED and MODADD (41_checksum.md R143 to R145) -/

/-- CHOP as a number: the high half counts 15 times, as 2^16 = 65521 + 15. -/
theorem chop_toNat (x : Word) : (chop x).toNat = x.toNat % 65536 + 15 * (x.toNat / 65536) := by
  have hx := x.isLt
  have hlow : (x &&& 0xffff#32).toNat = x.toNat % 65536 := Nat.and_two_pow_sub_one_eq_mod x.toNat 16
  have hhigh : (x >>> 16).toNat = x.toNat / 65536 := Nat.shiftRight_eq_div_pow x.toNat 16
  simp only [chop, BitVec.toNat_add, BitVec.toNat_sub, BitVec.toNat_shiftLeft, Nat.shiftLeft_eq, hlow, hhigh]
  omega

theorem chop_le (x : Word) : (chop x).toNat ≤ 1048560 := by
  have hx := x.isLt
  rw [chop_toNat]
  omega

theorem chop_mod (x : Word) : (chop x).toNat % 65521 = x.toNat % 65521 := by
  rw [chop_toNat]
  omega

/-- Settles O49: the number CHOP gives, and what follows from it. -/
theorem chopIsACongruence : Obligations.ChopIsACongruence :=
  ⟨by decide, fun x => ⟨rfl, chop_toNat x, chop_le x, chop_mod x⟩⟩

theorem subBase_toNat (y : Word) : (subBase y).toNat = if 65521 ≤ y.toNat then y.toNat - 65521 else y.toNat := by
  have hbase : baseWord.toNat = 65521 := by decide
  have hy := y.isLt
  unfold subBase
  simp only [BitVec.le_def, hbase]
  split
  · rw [BitVec.toNat_sub, hbase]; omega
  · rfl

/-- One conditional subtract reduces a value below twice BASE. -/
theorem subBase_toNat_of_lt {y : Word} (h : y.toNat < 2 * 65521) : (subBase y).toNat = y.toNat % 65521 := by
  rw [subBase_toNat]
  split <;> omega

theorem modred_toNat (x : Word) : (modred x).toNat = x.toNat % 65521 := by
  have hone := chop_le x
  have htwo : (chop (chop x)).toNat < 2 * 65521 := by
    rw [chop_toNat]
    omega
  rw [modred, subBase_toNat_of_lt htwo, chop_mod, chop_mod]

/-- Settles O50: after two CHOPs one conditional subtract is enough. -/
theorem modredIsMod : Obligations.ModredIsMod := ⟨modred_toNat, by decide⟩

theorem modadd_toNat {x y : Word} (hx : x.toNat < 65521) (hy : y.toNat < 65521) :
    (modadd x y).toNat = (x.toNat + y.toNat) % 65521 := by
  have hsum : (x + y).toNat = x.toNat + y.toNat := BitVec.toNat_add_of_lt (by omega)
  rw [modadd, subBase_toNat_of_lt (by omega), hsum]

/-- Settles O51: the sum is below twice BASE. -/
theorem modaddIsMod : Obligations.ModaddIsMod := by
  intro x y hx hy
  rw [modadd_toNat hx hy]
  exact ⟨rfl, Nat.mod_lt _ (by decide)⟩

/-! ## The reduction tree (41_checksum.md R146) -/

/-- The sum of some lane values. -/
def laneSum (t : List Word) : Nat := (t.map (·.toNat)).sum

@[simp] theorem laneSum_nil : laneSum [] = 0 := rfl

@[simp] theorem laneSum_cons (x : Word) (t : List Word) : laneSum (x :: t) = x.toNat + laneSum t := rfl

/-- Every lane value is below BASE. -/
def LanesReduced (t : List Word) : Prop := ∀ x ∈ t, x.toNat < 65521

theorem map_modred_reduced (t : List Word) : LanesReduced (t.map modred) := by
  intro y hy
  obtain ⟨x, -, rfl⟩ := List.mem_map.1 hy
  rw [modred_toNat]
  exact Nat.mod_lt _ (by decide)

theorem laneSum_map_modred (t : List Word) : laneSum (t.map modred) % 65521 = laneSum t % 65521 := by
  induction t with
  | nil => rfl
  | cons x t ih =>
    simp only [List.map_cons, laneSum_cons, modred_toNat]
    omega

/-- One adder level halves the lanes, and keeps them reduced and their sum modulo BASE. -/
theorem mrtLevel_spec {t : List Word} (h : LanesReduced t) : (mrtLevel t).length = (t.length + 1) / 2 ∧
    LanesReduced (mrtLevel t) ∧ laneSum (mrtLevel t) % 65521 = laneSum t % 65521 := by
  induction t using mrtLevel.induct with
  | case1 x y rest ih =>
    obtain ⟨hx, hy, hrest⟩ : x.toNat < 65521 ∧ y.toNat < 65521 ∧ LanesReduced rest := by
      simpa [LanesReduced] using h
    obtain ⟨hlen, hred, hsum⟩ := ih hrest
    have hadd := modadd_toNat hx hy
    simp only [mrtLevel, List.length_cons, laneSum_cons, hlen]
    refine ⟨by omega, ?_, by omega⟩
    intro z hz
    obtain rfl | hz := List.mem_cons.1 hz
    · rw [hadd]; exact Nat.mod_lt _ (by decide)
    · exact hred z hz
  | case2 rest hshort =>
    match rest, hshort with
    | [], _ => exact ⟨rfl, h, rfl⟩
    | [x], _ => exact ⟨by simp [mrtLevel], h, rfl⟩
    | x :: y :: rest, hshort => exact (hshort x y rest rfl).elim

/-- `k` levels leave one lane of 2^k, the sum modulo BASE. -/
theorem mrtLevels_spec {k : Nat} : ∀ {t : List Word}, LanesReduced t → t.length = 2 ^ k →
    ((mrtLevels k t).headD 0).toNat = laneSum t % 65521 := by
  induction k with
  | zero =>
    intro t h hlen
    obtain ⟨x, rfl⟩ := List.length_eq_one_iff.1 hlen
    exact (Nat.mod_eq_of_lt (h x (List.mem_singleton_self x))).symm
  | succ k ih =>
    intro t h hlen
    obtain ⟨hlen', hred, hsum⟩ := mrtLevel_spec h
    rw [mrtLevels, ih hred (by rw [hlen', hlen]; omega), hsum]

theorem lanes_eq_two_pow (w : VecBytes) : w.lanes = 2 ^ (w.log2 - 2) := by cases w <;> rfl

theorem mrt_toNat {w : VecBytes} {t : List Word} (h : t.length = w.lanes) :
    (mrt w t).toNat = laneSum t % 65521 := by
  have hlen : (t.map modred).length = 2 ^ (w.log2 - 2) := by rw [List.length_map, h, lanes_eq_two_pow]
  rw [mrt, mrtLevels_spec (map_modred_reduced t) hlen, laneSum_map_modred]

/-- Settles O52: reduce each lane, then add by halves. -/
theorem treeAddsModulo : Obligations.TreeAddsModulo := fun _ _ h => mrt_toNat h

/-! ## The bounds NMAX and KMAX (41_checksum.md R141, R142) -/

/-- The largest number up to which a monotone function stays within a bound, from its two neighbouring values. -/
theorem le_iff_le_of_monotone {f : Nat → Nat} (hf : Monotone f) {n c : Nat} (hle : f n ≤ c) (hlt : c < f (n + 1))
    (k : Nat) : f k ≤ c ↔ k ≤ n := by
  refine ⟨fun h => ?_, fun h => (hf h).trans hle⟩
  by_contra hn
  exact absurd (hlt.trans_le (hf (Nat.lt_of_not_le hn))) (by omega)

theorem laneBound_mono (w : VecBytes) : Monotone (laneBound w) := by
  intro a b h
  unfold laneBound
  gcongr

theorem laneBound_le_iff (w : VecBytes) (k : Nat) : laneBound w k ≤ 2 ^ 32 - 1 ↔ k ≤ w.kmax :=
  le_iff_le_of_monotone (laneBound_mono w) (by cases w <;> decide) (by cases w <;> decide) k

/-- Settles O55: the lane bound grows with the number of beats, and passes 2^32 - 1 right after KMAX. -/
theorem kmaxIsTheLaneBound : Obligations.KmaxIsTheLaneBound := laneBound_le_iff

/-- The left side of the condition of R141. -/
def nmaxBound (n : Nat) : Nat := 255 * n * (n + 1) / 2 + (n + 1) * (adlerBase - 1)

theorem nmaxCondition_iff {n : Nat} : nmaxCondition n = true ↔ nmaxBound n ≤ 2 ^ 32 - 1 := by
  simp only [nmaxCondition, decide_eq_true_eq, nmaxBound]

theorem nmaxBound_mono : Monotone nmaxBound := by
  intro a b h
  unfold nmaxBound
  gcongr

/-- Settles O56: the left side of the condition grows with n, and passes 2^32 - 1 right after NMAX. -/
theorem nmaxIsTheLargest : Obligations.NmaxIsTheLargest := fun n =>
  nmaxCondition_iff.trans (le_iff_le_of_monotone nmaxBound_mono (by decide) (by decide) n)

end Sys2Proof.Machine
end

/-! The proofs of the family 41_checksum, second layer: the scalar definition in closed form (41_checksum.md R130), what
follows from it (R149, R150), and the command ADLER.UPD (R131, R132). -/
section
namespace Sys2Proof.Machine

/-! ## The sums of the scalar definition, in closed form (41_checksum.md R130, R139) -/

/-- The sum of some bytes. -/
def byteSum (data : List Byte) : Nat := (data.map (·.toNat)).sum

/-- The sum of some bytes, each with its weight of R139: the count of bytes after it, plus one. -/
def weightSum : List Byte → Nat
  | [] => 0
  | b :: rest => (rest.length + 1) * b.toNat + weightSum rest

@[simp] theorem byteSum_nil : byteSum [] = 0 := rfl

@[simp] theorem byteSum_cons (b : Byte) (data : List Byte) : byteSum (b :: data) = b.toNat + byteSum data := rfl

@[simp] theorem byteSum_append (A B : List Byte) : byteSum (A ++ B) = byteSum A + byteSum B := by
  simp [byteSum]

@[simp] theorem weightSum_nil : weightSum [] = 0 := rfl

@[simp] theorem weightSum_cons (b : Byte) (data : List Byte) :
    weightSum (b :: data) = (data.length + 1) * b.toNat + weightSum data := rfl

/-- Bytes put after others add their count to the weight of each of them. -/
@[simp] theorem weightSum_append (A B : List Byte) :
    weightSum (A ++ B) = weightSum A + B.length * byteSum A + weightSum B := by
  induction A with
  | nil => simp
  | cons b A ih => simp only [List.cons_append, weightSum_cons, byteSum_cons, List.length_append, ih]; ring

/-- The weights of R139 by position. -/
theorem weightSum_eq_sum_range (data : List Byte) : weightSum data =
    ((List.range data.length).map fun k => (data.length - k) * (data.getD k 0).toNat).sum := by
  induction data with
  | nil => rfl
  | cons b data ih =>
    simp [List.range_succ_eq_map, Function.comp_def, ih]

/-- The sums after some bytes, none of them reduced. -/
def Sums.extend (p : Sums) (data : List Byte) : Sums :=
  { s1 := p.s1 + byteSum data, s2 := p.s2 + data.length * p.s1 + weightSum data }

/-- Both sums modulo BASE. -/
def Sums.reduce (p : Sums) : Sums := { s1 := p.s1 % 65521, s2 := p.s2 % 65521 }

/-- Both sums are below BASE. -/
structure Sums.Reduced (p : Sums) : Prop where
  s1 : p.s1 < 65521
  s2 : p.s2 < 65521

theorem Sums.reduce_reduced (p : Sums) : p.reduce.Reduced := ⟨Nat.mod_lt _ (by decide), Nat.mod_lt _ (by decide)⟩

theorem Sums.Reduced.reduce_eq {p : Sums} (h : p.Reduced) : p.reduce = p := by
  rw [Sums.reduce, Nat.mod_eq_of_lt h.s1, Nat.mod_eq_of_lt h.s2]

@[simp] theorem Sums.extend_nil (p : Sums) : p.extend [] = p := by simp [Sums.extend]

@[simp] theorem Sums.extend_extend (p : Sums) (A B : List Byte) : (p.extend A).extend B = p.extend (A ++ B) := by
  simp only [Sums.extend, byteSum_append, weightSum_append, List.length_append, Sums.mk.injEq]
  constructor <;> ring

/-- Reducing before some bytes changes nothing once the sums are reduced after them. -/
@[simp] theorem Sums.reduce_extend_reduce (p : Sums) (data : List Byte) :
    (p.reduce.extend data).reduce = (p.extend data).reduce := by
  simp [Sums.extend, Sums.reduce, Nat.add_mod, Nat.mul_mod]

theorem Sums.absorb_eq (p : Sums) (b : Byte) : p.absorb b = (p.extend [b]).reduce := by
  simp [Sums.absorb, Sums.extend, Sums.reduce, adlerBase, Nat.add_assoc]

/-- The loop keeps the sums that `extend` gives, modulo BASE. -/
theorem reduce_foldl_absorb (data : List Byte) : ∀ p : Sums,
    (data.foldl Sums.absorb p).reduce = (p.extend data).reduce := by
  induction data with
  | nil => intro p; simp
  | cons b data ih => intro p; simp [ih, Sums.absorb_eq]

theorem foldl_absorb_reduced (data : List Byte) : ∀ {p : Sums}, p.Reduced → (data.foldl Sums.absorb p).Reduced := by
  induction data with
  | nil => intro p h; exact h
  | cons b data ih => intro p _; exact ih (Sums.absorb_eq p b ▸ Sums.reduce_reduced _)

/-- The loop from reduced sums. -/
theorem foldl_absorb_of_reduced {p : Sums} (h : p.Reduced) (data : List Byte) :
    data.foldl Sums.absorb p = (p.extend data).reduce := by
  rw [← (foldl_absorb_reduced data h).reduce_eq, reduce_foldl_absorb]

/-- The loop from any sums: the first byte reduces them. -/
theorem foldl_absorb_of_ne_nil (p : Sums) {data : List Byte} (h : data ≠ []) :
    data.foldl Sums.absorb p = (p.extend data).reduce := by
  obtain ⟨b, rest, rfl⟩ := List.exists_cons_of_ne_nil h
  rw [List.foldl_cons, Sums.absorb_eq, foldl_absorb_of_reduced (Sums.reduce_reduced _)]
  simp

theorem adler_of_ne_nil (seed : Word) {data : List Byte} (h : data ≠ []) :
    adler seed data = ((Sums.ofSeed seed).extend data).reduce.pack := by
  rw [← foldl_absorb_of_ne_nil _ h]
  cases data with
  | nil => exact absurd rfl h
  | cons b rest => rfl

/-! ## Packing (41_checksum.md R130, R147) -/

theorem shiftLeft_or_eq {a b : Nat} (hb : b < 65536) : a <<< 16 ||| b = 65536 * a + b := by
  rw [← Nat.shiftLeft_add_eq_or_of_lt (i := 16) hb, Nat.shiftLeft_eq, Nat.mul_comm]

theorem Sums.Reduced.pack_toNat {p : Sums} (h : p.Reduced) : p.pack.toNat = 65536 * p.s2 + p.s1 := by
  have h1 := h.s1
  have h2 := h.s2
  rw [Sums.pack, shiftLeft_or_eq (by omega), BitVec.toNat_ofNat]
  omega

theorem Sums.Reduced.ofSeed_pack {p : Sums} (h : p.Reduced) : Sums.ofSeed p.pack = p := by
  have h1 := h.s1
  have h2 := h.s2
  have hlow : (65536 * p.s2 + p.s1) % 65536 = p.s1 := by omega
  have hhigh : (65536 * p.s2 + p.s1) / 65536 = p.s2 := by omega
  rw [Sums.ofSeed, h.pack_toNat, hlow, hhigh]

/-! ## The function ADLER (41_checksum.md R130, R149, R150) -/

/-- Settles O45: the unreduced sums of `extend`, reduced and packed. -/
theorem adlerClosedForm : Obligations.AdlerClosedForm := by
  intro seed data h
  rw [adler_of_ne_nil seed h, (Sums.reduce_reduced _).pack_toNat, ← weightSum_eq_sum_range]
  rfl

theorem adler_adler (seed : Word) (A B : List Byte) : adler (adler seed A) B = adler seed (A ++ B) := by
  by_cases hA : A = []
  · rw [hA]; rfl
  by_cases hB : B = []
  · rw [hB, List.append_nil]; rfl
  rw [adler_of_ne_nil seed hA, adler_of_ne_nil _ hB, adler_of_ne_nil seed (List.append_ne_nil_of_left_ne_nil hA B),
    (Sums.reduce_reduced _).ofSeed_pack, Sums.reduce_extend_reduce, Sums.extend_extend]

theorem adler_halves_lt (seed : Word) {data : List Byte} (h : data ≠ []) :
    (adler seed data).toNat % 65536 < 65521 ∧ (adler seed data).toNat / 65536 < 65521 := by
  have hred := Sums.reduce_reduced ((Sums.ofSeed seed).extend data)
  have h1 := hred.s1
  have h2 := hred.s2
  rw [adler_of_ne_nil seed h, hred.pack_toNat]
  omega

/-! ## The command ADLER.UPD (41_checksum.md R131, R132) -/

theorem execAdlerUpd_of_not_fits {s : State} (h : 2 ^ 32 < s.src.toNat + s.len.toNat) :
    exec .adlerUpd s = .next (s.raiseError .range (some s.src)) := by
  have hfits : s.dataFits = false := Bool.eq_false_iff.2 fun hf => absurd (State.dataFits_iff.1 hf) (Nat.not_le.2 h)
  simp [exec, execAdlerUpd, hfits]

theorem execAdlerUpd_of_len_zero {s : State} (h : s.len = 0#32) : exec .adlerUpd s = .next s.complete := by
  have hsrc := s.src.isLt
  have hfits : s.dataFits = true := State.dataFits_iff.2 (by rw [h]; exact hsrc.le)
  simp [exec, execAdlerUpd, hfits, h]

theorem data_of_len_zero {s : State} (h : s.len = 0#32) : s.data = [] := by
  rw [State.data, h]
  rfl

theorem data_ne_nil {s : State} (h : s.len ≠ 0#32) : s.data ≠ [] := by
  have hpos : s.len.toNat ≠ 0 := fun h0 => h (BitVec.eq_of_toNat_eq h0)
  rw [← List.length_pos_iff, State.data, readBytes_length]
  omega

/-- Where every access is answered with data ADLER.UPD writes the checksum; with no byte that is ACC itself. -/
theorem execAdlerUpd_of_quiet {s : State} (hfits : s.src.toNat + s.len.toNat ≤ 2 ^ 32)
    (hquiet : Quiet s.cfg s.src.toNat s.len.toNat) : exec .adlerUpd s = .next (adlerDone s) := by
  by_cases h : s.len = 0#32
  · rw [execAdlerUpd_of_len_zero h, adlerDone, data_of_len_zero h]
    rfl
  · have hreply : s.dataReply = .ok :=
      busReply_ok (fun x h1 h2 => (hquiet x h1 h2).1) fun x h1 h2 => (hquiet x h1 h2).2
    simp [exec, execAdlerUpd, State.dataFits_iff.2 hfits, h, hreply]

theorem execAdlerUpd_of_firstError {s : State} {e : Nat} (hfits : s.src.toNat + s.len.toNat ≤ 2 ^ 32)
    (herr : FirstError s.cfg s.src.toNat s.len.toNat 1 e) : exec .adlerUpd s = .next (adlerBusError s e) := by
  obtain ⟨⟨hlow, hhigh⟩, hbus, hfirst, hanswered⟩ := herr
  have hlen : s.len ≠ 0#32 := by
    intro h
    rw [h] at hhigh
    exact absurd hhigh (Nat.not_lt.2 hlow)
  have hreply : s.dataReply = .error e := busReply_eq_error hlow hhigh hbus hfirst hanswered
  simp [exec, execAdlerUpd, State.dataFits_iff.2 hfits, hlen, hreply]

/-- The interval of R132 is not empty. -/
theorem busAddrLow_le {c : Config} {a e : Nat} (h : a ≤ e) : busAddrLow c a e ≤ e :=
  max_le h (Nat.sub_le _ _)

/-- Settles O11: one lemma for each ending of the command. -/
theorem adlerUpdResult : Obligations.AdlerUpdResult := by
  refine ⟨by decide, fun s _ => ⟨execAdlerUpd_of_not_fits, execAdlerUpd_of_len_zero, fun hfits hquiet => ?_,
    fun e hfits herr => ?_⟩⟩
  · rw [execAdlerUpd_of_quiet hfits hquiet, ← readBytes_eq_map]
    rfl
  · have ⟨⟨hlow, hhigh⟩, _⟩ := herr
    exact ⟨_, drawAddr_bounds (busAddrLow_le hlow) (hhigh.trans_le hfits), execAdlerUpd_of_firstError hfits herr⟩

/-- Settles O47: the checksum of at least one byte has reduced halves. -/
theorem checksumHalvesReduced : Obligations.ChecksumHalvesReduced := by
  refine fun s _ => ⟨fun hlen hfits hquiet => ?_, fun hlen => ⟨_, execAdlerUpd_of_len_zero hlen, rfl⟩⟩
  exact ⟨_, execAdlerUpd_of_quiet hfits hquiet, adler_halves_lt s.acc (data_ne_nil hlen)⟩

theorem Quiet.mono {c : Config} {a n b k : Nat} (h : Quiet c a n) (hlow : a ≤ b) (hhigh : b + k ≤ a + n) :
    Quiet c b k := fun x h1 h2 => h x (by omega) (by omega)

/-- Where the second of two adjacent ranges starts: past the first, unless it is empty at the top of the space. -/
theorem next_src {src a b : Word} (h : src.toNat + a.toNat + b.toNat ≤ 2 ^ 32) :
    b.toNat = 0 ∨ (src + a).toNat = src.toNat + a.toNat := by
  rw [BitVec.toNat_add]
  omega

/-- `execAdlerUpd_of_quiet` for operands just written. -/
theorem execAdlerUpd_over (s : State) {src len : Word} (hfits : src.toNat + len.toNat ≤ 2 ^ 32)
    (hquiet : Quiet s.cfg src.toNat len.toNat) :
    exec .adlerUpd { s with src := src, len := len } = .next (adlerDone { s with src := src, len := len }) :=
  execAdlerUpd_of_quiet hfits hquiet

/-- Settles O46: the second command reads on where the first one ended, and takes its ACC for a seed. -/
theorem checksumConcatenates : Obligations.ChecksumConcatenates := by
  refine ⟨adler_adler, fun s a b _ hfits hsum hquiet => ?_⟩
  have hab : (a + b).toNat = a.toNat + b.toNat := BitVec.toNat_add_of_lt hsum
  have hle : (s.src + a).toNat ≤ s.src.toNat + a.toNat := Nat.mod_le _ _
  have hquiet' : Quiet s.cfg (s.src + a).toNat b.toNat := by
    obtain hb | hsrc := next_src hfits
    · rw [hb]; exact fun x h1 h2 => absurd h2 (Nat.not_lt.2 h1)
    · rw [hsrc]; exact hquiet.mono (by omega) (by omega)
  have hdata : readBytes s.mem (s.src + a).toNat b.toNat = readBytes s.mem (s.src.toNat + a.toNat) b.toNat := by
    obtain hb | hsrc := next_src hfits
    · rw [hb]; rfl
    · rw [hsrc]
  have hfirst := execAdlerUpd_over s (src := s.src) (len := a) (by omega) (hquiet.mono le_rfl (by omega))
  have hsecond := execAdlerUpd_over (adlerDone { s with len := a }) (by omega) hquiet'
  have hwhole := execAdlerUpd_over s (src := s.src) (len := a + b) (by omega) (by rw [hab]; exact hquiet)
  refine ⟨_, _, _, hfirst, hsecond, hwhole, ?_⟩
  calc adler (adler s.acc (readBytes s.mem s.src.toNat a.toNat)) (readBytes s.mem (s.src + a).toNat b.toNat)
      = adler s.acc (readBytes s.mem s.src.toNat (a.toNat + b.toNat)) := by
        rw [adler_adler, hdata, readBytes_append]
    _ = adler s.acc (readBytes s.mem s.src.toNat (a + b).toNat) := by rw [hab]

end Sys2Proof.Machine
end

/-! The proofs of the family 41_checksum, third layer: the fold-and-reduce pipeline computes ADLER (41_checksum.md R133
to R140, R147, R148). -/
section
namespace Sys2Proof.Machine

/-! ## The scalar pair (41_checksum.md R134, R135, R147) -/

/-- The sums that a pair of 32-bit registers holds. -/
def Pair.sums (p : Pair) : Sums := { s1 := p.s1.toNat, s2 := p.s2.toNat }

theorem Pair.ofSeed_sums (seed : Word) : (Pair.ofSeed seed).sums = (Sums.ofSeed seed).reduce := by
  have hlow : (seed &&& 0xffff#32).toNat = seed.toNat % 65536 := Nat.and_two_pow_sub_one_eq_mod seed.toNat 16
  have hhigh : (seed >>> 16).toNat = seed.toNat / 65536 := Nat.shiftRight_eq_div_pow seed.toNat 16
  simp only [Pair.sums, Pair.ofSeed, modred_toNat, hlow, hhigh]
  rfl

/-- The scalar step is made of MODADDs (R135, R145). -/
theorem Pair.scalarStep_eq (p : Pair) (b : Byte) : p.scalarStep b =
    { s1 := modadd p.s1 (b.setWidth 32), s2 := modadd p.s2 (modadd p.s1 (b.setWidth 32)) } := rfl

theorem Pair.scalarStep_sums {p : Pair} (h : p.sums.Reduced) (b : Byte) :
    (p.scalarStep b).sums = p.sums.absorb b := by
  have hb := b.isLt
  have hwide : (b.setWidth 32).toNat = b.toNat := BitVec.toNat_setWidth_of_le (by decide)
  have h1 : (modadd p.s1 (b.setWidth 32)).toNat = (p.s1.toNat + b.toNat) % 65521 := by
    rw [modadd_toNat h.s1 (by omega), hwide]
  have h2 : (modadd p.s2 (modadd p.s1 (b.setWidth 32))).toNat
      = (p.s2.toNat + (p.s1.toNat + b.toNat) % 65521) % 65521 := by
    rw [modadd_toNat h.s2 (by omega), h1]
  rw [Pair.scalarStep_eq, Pair.sums, h1, h2]
  rfl

/-- Settles O53: the scalar step on registers below BASE is `Sums.absorb`. -/
theorem scalarStepIsTheLoop : Obligations.ScalarStepIsTheLoop := by
  intro p b h1 h2
  have h := Pair.scalarStep_sums ⟨h1, h2⟩ b
  exact ⟨congrArg Sums.s1 h, congrArg Sums.s2 h⟩

/-- The scalar path over some bytes. -/
theorem foldl_scalarStep_sums (data : List Byte) : ∀ {p : Pair}, p.sums.Reduced →
    (data.foldl Pair.scalarStep p).sums = (p.sums.extend data).reduce := by
  induction data with
  | nil => intro p h; simp [h.reduce_eq]
  | cons b data ih =>
    intro p h
    have hstep : (p.scalarStep b).sums = (p.sums.extend [b]).reduce := by
      rw [Pair.scalarStep_sums h, Sums.absorb_eq]
    rw [List.foldl_cons, ih (hstep ▸ Sums.reduce_reduced _), hstep]
    simp

theorem Pair.pack_eq {p : Pair} (h : p.sums.Reduced) : p.pack = p.sums.pack := by
  have h1 : p.s1.toNat < 65521 := h.s1
  have h2 : p.s2.toNat < 65521 := h.s2
  apply BitVec.eq_of_toNat_eq
  have hshift : (p.s2 <<< 16).toNat = p.s2.toNat <<< 16 := by
    rw [BitVec.toNat_shiftLeft, Nat.shiftLeft_eq]
    omega
  rw [h.pack_toNat, Pair.pack, BitVec.toNat_or, hshift, shiftLeft_or_eq (by omega)]
  rfl

/-! ## The partition (41_checksum.md R133) -/

theorem bytes_pos (w : VecBytes) : 0 < w.bytes := Nat.two_pow_pos _

theorem headLen_le (w : VecBytes) (src len : Nat) : headLen w src len ≤ len := Nat.min_le_left _ _

theorem beatCount_mul_le (w : VecBytes) (src len : Nat) :
    beatCount w src len * w.bytes ≤ len - headLen w src len := Nat.div_mul_le_self _ _

/-- The distance to the next multiple of `w` leads to one. -/
theorem add_distance_mod (a : Nat) {w : Nat} (hw : 0 < w) : (a + (w - a % w) % w) % w = 0 := by
  have hlt := Nat.mod_lt a hw
  have hdiv := Nat.div_add_mod a w
  have hsum : a + (w - a % w) = w * (a / w + 1) := by
    rw [Nat.mul_succ]
    omega
  rw [Nat.add_mod_mod, hsum, Nat.mul_mod_right]

/-- Where a beat follows the head, the head ends at a multiple of W. -/
theorem headLen_of_beatCount_pos {w : VecBytes} {src len : Nat} (h : 0 < beatCount w src len) :
    headLen w src len = (w.bytes - src % w.bytes) % w.bytes := by
  have hle : w.bytes ≤ len - headLen w src len := (Nat.div_pos_iff.1 h).2
  have hpos := bytes_pos w
  unfold headLen at hle ⊢
  omega

/-- Settles O54: beats are counted by a division, whose remainder is the tail. -/
theorem partitionCoversTheRange : Obligations.PartitionCoversTheRange := by
  intro w src len
  have hhead := headLen_le w src len
  have hmiddle := beatCount_mul_le w src len
  have htail : tailLen w src len = (len - headLen w src len) % w.bytes := by
    have hdiv := Nat.div_add_mod' (len - headLen w src len) w.bytes
    unfold tailLen beatCount
    omega
  refine ⟨?_, ?_, ?_, fun h => ?_⟩
  · unfold tailLen
    omega
  · exact (Nat.min_le_right _ _).trans_lt (Nat.mod_lt _ (bytes_pos w))
  · rw [htail]
    exact Nat.mod_lt _ (bytes_pos w)
  · rw [headLen_of_beatCount_pos h]
    exact add_distance_mod src (bytes_pos w)

@[simp] theorem beatsOf_length (w : VecBytes) (n : Nat) : ∀ data, (beatsOf w n data).length = n := by
  induction n with
  | zero => intro data; rfl
  | succ n ih => intro data; rw [beatsOf, List.length_cons, ih]

theorem beatsOf_flatten (w : VecBytes) (n : Nat) : ∀ data, (beatsOf w n data).flatten = data.take (n * w.bytes) := by
  induction n with
  | zero => intro data; simp [beatsOf]
  | succ n ih => intro data; rw [beatsOf, List.flatten_cons, ih, Nat.succ_mul, Nat.add_comm, List.take_add]

theorem length_of_mem_beatsOf {w : VecBytes} {n : Nat} : ∀ {data beat : List Byte}, n * w.bytes ≤ data.length →
    beat ∈ beatsOf w n data → beat.length = w.bytes := by
  induction n with
  | zero => intro data beat _ h; cases h
  | succ n ih =>
    intro data beat hlen h
    rw [Nat.succ_mul] at hlen
    obtain rfl | h := List.mem_cons.1 h
    · rw [List.length_take]; omega
    · exact ih (by rw [List.length_drop]; omega) h

/-! ## One lane (41_checksum.md R138, R142) -/

/-- The bound of R142 on vs2 after `k` beats. -/
def vs2Bound (w : VecBytes) (k : Nat) : Nat := 65520 + 255 * k * (4 * w.bytes - 6)

/-- The bound of R142 on vs1_r after `k` beats. -/
def vs1rBound (k : Nat) : Nat := 65520 * k + 510 * k * (k - 1)

theorem laneBound_eq (w : VecBytes) (k : Nat) : laneBound w k = vs2Bound w k + w.bytes * vs1rBound k := rfl

theorem vs2Bound_succ (w : VecBytes) (k : Nat) : vs2Bound w (k + 1) = vs2Bound w k + 255 * (4 * w.bytes - 6) := by
  unfold vs2Bound
  ring

theorem vs1rBound_succ (k : Nat) : vs1rBound (k + 1) = vs1rBound k + (65520 + 1020 * k) := by
  cases k with
  | zero => rfl
  | succ k =>
    simp only [vs1rBound, Nat.add_sub_cancel]
    ring

/-- No lane register passes 32 bits within KMAX(W) beats. -/
theorem bounds_lt {w : VecBytes} {k : Nat} (hk : k ≤ w.kmax) : vs2Bound w k < 2 ^ 32 ∧ vs1rBound k < 2 ^ 32 := by
  have hbound := (laneBound_le_iff w k).2 hk
  have hle : vs1rBound k ≤ w.bytes * vs1rBound k := Nat.le_mul_of_pos_left _ (bytes_pos w)
  rw [laneBound_eq] at hbound
  omega

/-- What bounds a lane after `k` beats of a super-block (R142): every lane by what lane 0 can reach. -/
structure Lane.Bounded (w : VecBytes) (k : Nat) (l : Lane) : Prop where
  vs1 : l.vs1.toNat ≤ 65520 + 1020 * k
  vs2 : l.vs2.toNat ≤ vs2Bound w k
  vs1r : l.vs1r.toNat ≤ vs1rBound k

/-- What a lane adds to t2 at the end of a super-block (R140). -/
def Lane.t2 (w : VecBytes) (l : Lane) : Nat := l.vs2.toNat + w.bytes * l.vs1r.toNat

theorem Lane.Bounded.t2_lt {w : VecBytes} {k : Nat} {l : Lane} (h : l.Bounded w k) (hk : k ≤ w.kmax) :
    l.t2 w < 2 ^ 32 := by
  have hle : l.t2 w ≤ laneBound w k := Nat.add_le_add h.vs2 (Nat.mul_le_mul_left _ h.vs1r)
  have hbound := (laneBound_le_iff w k).2 hk
  omega

theorem kmax_le (w : VecBytes) : w.kmax ≤ 963 := by cases w <;> decide

/-- Four bytes with falling weights from at most W on. -/
theorem weighted_four_le {w wt : Nat} (h4 : 4 ≤ wt) (hw : wt ≤ w) (b0 b1 b2 b3 : Byte) :
    wt * b0.toNat + (wt - 1) * b1.toNat + (wt - 2) * b2.toNat + (wt - 3) * b3.toNat ≤ 255 * (4 * w - 6) := by
  have h (i : Nat) (b : Byte) : (wt - i) * b.toNat ≤ (w - i) * 255 :=
    Nat.mul_le_mul (Nat.sub_le_sub_right hw i) (Nat.le_of_lt_succ b.isLt)
  have h0 := h 0 b0
  have h1 := h 1 b1
  have h2 := h 2 b2
  have h3 := h 3 b3
  simp only [Nat.sub_zero] at h0
  omega

/-- A beat step as numbers, while the sums it leaves still fit 32 bits. -/
theorem Lane.beat_toNat {w : VecBytes} {k wt : Nat} {l : Lane} (hl : l.Bounded w k) (hk : k + 1 ≤ w.kmax)
    (h4 : 4 ≤ wt) (hw : wt ≤ w.bytes) (b0 b1 b2 b3 : Byte) :
    (l.beat wt b0 b1 b2 b3).vs1.toNat = l.vs1.toNat + (b0.toNat + b1.toNat + b2.toNat + b3.toNat) ∧
    (l.beat wt b0 b1 b2 b3).vs1r.toNat = l.vs1r.toNat + l.vs1.toNat ∧
    (l.beat wt b0 b1 b2 b3).vs2.toNat = l.vs2.toNat +
      (wt * b0.toNat + (wt - 1) * b1.toNat + (wt - 2) * b2.toNat + (wt - 3) * b3.toNat) := by
  have hkmax := kmax_le w
  have hweights := weighted_four_le h4 hw b0 b1 b2 b3
  obtain ⟨h1, h2, h1r⟩ := hl
  obtain ⟨hfit2, hfit1r⟩ := bounds_lt hk
  rw [vs2Bound_succ] at hfit2
  rw [vs1rBound_succ] at hfit1r
  refine ⟨?_, BitVec.toNat_add_of_lt (by omega), ?_⟩
  · simp only [Lane.beat, BitVec.toNat_add, BitVec.toNat_setWidth]
    omega
  · have hword : (l.beat wt b0 b1 b2 b3).vs2 = BitVec.ofNat 32 (l.vs2.toNat +
        (wt * b0.toNat + (wt - 1) * b1.toNat + (wt - 2) * b2.toNat + (wt - 3) * b3.toNat)) := by
      simp only [Lane.beat, BitVec.ofNat_add, BitVec.ofNat_mul, BitVec.ofNat_toNat, BitVec.setWidth_eq]
      ac_rfl
    rw [hword, BitVec.toNat_ofNat, Nat.mod_eq_of_lt (by omega)]

theorem Lane.beat_bounded {w : VecBytes} {k wt : Nat} {l : Lane} (hl : l.Bounded w k) (hk : k + 1 ≤ w.kmax)
    (h4 : 4 ≤ wt) (hw : wt ≤ w.bytes) (b0 b1 b2 b3 : Byte) : (l.beat wt b0 b1 b2 b3).Bounded w (k + 1) := by
  have hweights := weighted_four_le h4 hw b0 b1 b2 b3
  obtain ⟨h1, h1r, h2⟩ := Lane.beat_toNat hl hk h4 hw b0 b1 b2 b3
  obtain ⟨hl1, hl2, hl1r⟩ := hl
  constructor
  · omega
  · rw [h2, vs2Bound_succ]; omega
  · rw [h1r, vs1rBound_succ]; omega

/-- What a beat adds to a lane's part of t2: W times the bytes before it (step (a) of R138), and its own bytes by
weight. -/
theorem Lane.beat_t2 {w : VecBytes} {k wt : Nat} {l : Lane} (hl : l.Bounded w k) (hk : k + 1 ≤ w.kmax)
    (h4 : 4 ≤ wt) (hw : wt ≤ w.bytes) (b0 b1 b2 b3 : Byte) :
    (l.beat wt b0 b1 b2 b3).t2 w = l.t2 w + w.bytes * l.vs1.toNat +
      (wt * b0.toNat + (wt - 1) * b1.toNat + (wt - 2) * b2.toNat + (wt - 3) * b3.toNat) := by
  obtain ⟨-, h1r, h2⟩ := Lane.beat_toNat hl hk h4 hw b0 b1 b2 b3
  rw [Lane.t2, h1r, h2, Lane.t2]
  ring

/-! ## All lanes (41_checksum.md R136 to R140) -/

/-- The sums that lanes hold: what t1 and t2 add up to at the end of a super-block (R140). -/
def laneSums (w : VecBytes) (lanes : List Lane) : Sums :=
  { s1 := (lanes.map (·.vs1.toNat)).sum, s2 := (lanes.map (Lane.t2 w)).sum }

theorem laneSums_cons (w : VecBytes) (l : Lane) (ls : List Lane) : laneSums w (l :: ls) =
    { s1 := l.vs1.toNat + (laneSums w ls).s1, s2 := l.t2 w + (laneSums w ls).s2 } := rfl

/-- The lanes after `k` beats of a super-block: their number, their bounds and the sums they hold. -/
structure LanesAt (w : VecBytes) (k : Nat) (p : Sums) (lanes : List Lane) : Prop where
  length : lanes.length = w.lanes
  bounded : ∀ l ∈ lanes, l.Bounded w k
  sums : laneSums w lanes = p

theorem bytes_eq_lanes (w : VecBytes) : w.bytes = 4 * w.lanes := by cases w <;> rfl

/-- The bytes of one lane, and those of the other lanes. -/
theorem exists_lane_bytes {beat : List Byte} {n : Nat} (h : beat.length = 4 * (n + 1)) :
    ∃ b0 b1 b2 b3 rest, beat = b0 :: b1 :: b2 :: b3 :: rest ∧ rest.length = 4 * n := by
  match beat, h with
  | b0 :: b1 :: b2 :: b3 :: rest, h => exact ⟨b0, b1, b2, b3, rest, rfl, by simpa [Nat.mul_succ] using h⟩

/-- One beat, or the end of one, over the lanes it belongs to; the weight of its first byte is its length (R139). -/
theorem beatStep_spec {w : VecBytes} {k : Nat} (hk : k + 1 ≤ w.kmax) {lanes : List Lane} :
    ∀ {beat : List Byte}, (∀ l ∈ lanes, l.Bounded w k) → beat.length = 4 * lanes.length → beat.length ≤ w.bytes →
    (beatStep beat.length lanes beat).length = lanes.length ∧
    (∀ l ∈ beatStep beat.length lanes beat, l.Bounded w (k + 1)) ∧
    laneSums w (beatStep beat.length lanes beat) =
      { s1 := (laneSums w lanes).s1 + byteSum beat
        s2 := (laneSums w lanes).s2 + w.bytes * (laneSums w lanes).s1 + weightSum beat } := by
  induction lanes with
  | nil =>
    intro beat _ hlen _
    obtain rfl := List.length_eq_zero_iff.1 hlen
    exact ⟨rfl, nofun, rfl⟩
  | cons l ls ih =>
    intro beat hbounded hlen hle
    obtain ⟨b0, b1, b2, b3, rest, rfl, hrest⟩ := exists_lane_bytes hlen
    obtain ⟨hl, hls⟩ := List.forall_mem_cons.1 hbounded
    simp only [List.length_cons] at hle
    obtain ⟨hlen', hbounded', hsums⟩ := ih hls hrest (by omega)
    have hstep : beatStep (b0 :: b1 :: b2 :: b3 :: rest).length (l :: ls) (b0 :: b1 :: b2 :: b3 :: rest) =
        l.beat (rest.length + 4) b0 b1 b2 b3 :: beatStep rest.length ls rest := rfl
    have h1 := (Lane.beat_toNat (wt := rest.length + 4) hl hk (by omega) hle b0 b1 b2 b3).1
    have h2 := Lane.beat_t2 (wt := rest.length + 4) hl hk (by omega) hle b0 b1 b2 b3
    have hb := Lane.beat_bounded (wt := rest.length + 4) hl hk (by omega) hle b0 b1 b2 b3
    rw [hstep]
    refine ⟨congrArg (· + 1) hlen', List.forall_mem_cons.2 ⟨hb, hbounded'⟩, ?_⟩
    simp only [laneSums_cons, hsums, h1, h2, byteSum_cons, weightSum_cons, List.length_cons,
      Nat.add_succ_sub_one, Nat.reduceSubDiff, Sums.mk.injEq]
    constructor <;> ring

/-- A super-block starts from the pair (R137). -/
theorem startLanes_at {p : Pair} (h : p.sums.Reduced) (w : VecBytes) : LanesAt w 0 p.sums (startLanes w p) := by
  have h1 : p.s1.toNat < 65521 := h.s1
  have h2 : p.s2.toNat < 65521 := h.s2
  have hpos : 0 < w.lanes := by cases w <;> decide
  refine ⟨?_, ?_, ?_⟩
  · rw [startLanes, List.length_cons, List.length_replicate]
    omega
  · refine List.forall_mem_cons.2 ⟨⟨?_, ?_, ?_⟩, fun l hl => ?_⟩
    · exact Nat.le_of_lt_succ h1
    · simpa [vs2Bound] using Nat.le_of_lt_succ h2
    · simp [vs1rBound]
    · rw [List.eq_of_mem_replicate hl]
      constructor <;> simp
  · simp [startLanes, laneSums, Lane.t2, Pair.sums]

/-- A beat extends the sums by its bytes (R138, R139). -/
theorem LanesAt.after_beat {w : VecBytes} {k : Nat} {p : Sums} {lanes : List Lane} {beat : List Byte}
    (h : LanesAt w k p lanes) (hk : k + 1 ≤ w.kmax) (hbeat : beat.length = w.bytes) :
    LanesAt w (k + 1) (p.extend beat) (beatStep w.bytes lanes beat) := by
  obtain ⟨hlen, hbounded, rfl⟩ := h
  obtain ⟨hlen', hbounded', hsums⟩ :=
    beatStep_spec hk hbounded (by rw [hbeat, hlen, bytes_eq_lanes]) hbeat.le
  rw [hbeat] at hlen' hbounded' hsums
  exact ⟨hlen'.trans hlen, hbounded', by rw [hsums, Sums.extend, hbeat]⟩

theorem LanesAt.after_beats {w : VecBytes} {beats : List (List Byte)} : ∀ {k : Nat} {p : Sums} {lanes : List Lane},
    LanesAt w k p lanes → k + beats.length ≤ w.kmax → (∀ beat ∈ beats, beat.length = w.bytes) →
    LanesAt w (k + beats.length) (p.extend beats.flatten) (beats.foldl (beatStep w.bytes) lanes) := by
  induction beats with
  | nil => intro k p lanes h _ _; simpa using h
  | cons beat beats ih =>
    intro k p lanes h hk hbeats
    obtain ⟨hbeat, hbeats⟩ := List.forall_mem_cons.1 hbeats
    rw [List.length_cons] at hk
    have hrest := ih (h.after_beat (by omega) hbeat) (by omega) hbeats
    rw [Sums.extend_extend] at hrest
    rw [List.length_cons, List.flatten_cons, List.foldl_cons, ← Nat.add_assoc, Nat.add_right_comm]
    exact hrest

/-- The super-block end reduces the sums that the lanes hold (R140). -/
theorem LanesAt.endPair_sums {w : VecBytes} {k : Nat} {p : Sums} {lanes : List Lane} (h : LanesAt w k p lanes)
    (hk : k ≤ w.kmax) : (endPair w lanes).sums = p.reduce := by
  obtain ⟨hlen, hbounded, rfl⟩ := h
  have ht2 : ∀ l ∈ lanes, (l.vs2 + BitVec.ofNat 32 w.bytes * l.vs1r).toNat = l.t2 w := by
    intro l hl
    have hword : l.vs2 + BitVec.ofNat 32 w.bytes * l.vs1r = BitVec.ofNat 32 (l.t2 w) := by
      simp only [Lane.t2, BitVec.ofNat_add, BitVec.ofNat_mul, BitVec.ofNat_toNat, BitVec.setWidth_eq]
    rw [hword, BitVec.toNat_ofNat, Nat.mod_eq_of_lt ((hbounded l hl).t2_lt hk)]
  simp only [Pair.sums, endPair, mrt_toNat (List.length_map _ |>.trans hlen), laneSum, List.map_map, Function.comp_def,
    List.map_congr_left ht2]
  rfl

/-! ## The middle and the whole pipeline (41_checksum.md R137, R148) -/

theorem superBlock_sums {w : VecBytes} {p : Pair} {beats : List (List Byte)} (h : p.sums.Reduced)
    (hk : beats.length ≤ w.kmax) (hbeats : ∀ beat ∈ beats, beat.length = w.bytes) :
    (superBlock w p beats).sums = (p.sums.extend beats.flatten).reduce := by
  have hlanes := (startLanes_at h w).after_beats (by omega) hbeats
  exact hlanes.endPair_sums (by omega)

/-- The middle, in super-blocks of `sb` beats; each takes at least one beat, so as much fuel as beats is enough. -/
theorem middle_sums {w : VecBytes} {sb : Nat} (h1 : 1 ≤ sb) (hsb : sb ≤ w.kmax) {fuel : Nat} :
    ∀ {p : Pair} {beats : List (List Byte)}, p.sums.Reduced → beats.length ≤ fuel →
    (∀ beat ∈ beats, beat.length = w.bytes) →
    (middle w sb fuel p beats).sums = (p.sums.extend beats.flatten).reduce := by
  induction fuel with
  | zero =>
    intro p beats h hlen _
    obtain rfl := List.length_eq_zero_iff.1 (Nat.le_zero.1 hlen)
    simp [middle, h.reduce_eq]
  | succ fuel ih =>
    intro p beats h hlen hbeats
    cases beats with
    | nil => simp [middle, h.reduce_eq]
    | cons beat rest =>
      have htake := superBlock_sums (beats := (beat :: rest).take sb) h ((List.length_take_le _ _).trans hsb)
        fun b hb => hbeats b (List.mem_of_mem_take hb)
      have hdrop := ih (htake ▸ Sums.reduce_reduced _) (beats := (beat :: rest).drop sb)
        (by rw [List.length_drop]; omega) fun b hb => hbeats b (List.mem_of_mem_drop hb)
      rw [middle, hdrop, htake, Sums.reduce_extend_reduce, Sums.extend_extend, ← List.flatten_append,
        List.take_append_drop]
      exact nofun

/-- The range in the order the pipeline takes it: head, beats, tail. -/
theorem head_middle_tail (w : VecBytes) (head n : Nat) (data : List Byte) :
    data.take head ++ (beatsOf w n (data.drop head)).flatten ++ data.drop (head + n * w.bytes) = data := by
  rw [beatsOf_flatten, List.append_assoc, ← List.drop_drop, List.take_append_drop, List.take_append_drop]

/-- Head, middle and tail of any partition into whole beats leave the sums of all the bytes. -/
theorem partition_sums {w : VecBytes} {sb : Nat} (h1 : 1 ≤ sb) (hsb : sb ≤ w.kmax) {p : Pair} (hp : p.sums.Reduced)
    {head n : Nat} {data : List Byte} (hn : n * w.bytes ≤ data.length - head) :
    ((data.drop (head + n * w.bytes)).foldl Pair.scalarStep
      (middle w sb n ((data.take head).foldl Pair.scalarStep p) (beatsOf w n (data.drop head)))).sums
      = (p.sums.extend data).reduce := by
  have hhead := foldl_scalarStep_sums (data.take head) hp
  have hmiddle := middle_sums h1 hsb (hhead ▸ Sums.reduce_reduced _) (beatsOf_length w n (data.drop head)).le
    fun beat => length_of_mem_beatsOf (hn.trans_eq List.length_drop.symm)
  rw [foldl_scalarStep_sums _ (hmiddle ▸ Sums.reduce_reduced _), hmiddle, hhead]
  simp only [Sums.reduce_extend_reduce, Sums.extend_extend, head_middle_tail]

/-- Settles O57: each part of the pipeline extends the sums by its bytes and reduces them, as the scalar loop does. -/
theorem pipelineComputesAdler : Obligations.PipelineComputesAdler := by
  intro w sb seed src data hdata h1 hsb
  have hseed := Pair.ofSeed_sums seed
  have hall := partition_sums h1 hsb (hseed ▸ Sums.reduce_reduced _) (beatCount_mul_le w src data.length)
  rw [frp, if_neg hdata, adler_of_ne_nil seed hdata, Pair.pack_eq (hall ▸ Sums.reduce_reduced _), hall, hseed,
    Sums.reduce_extend_reduce]

end Sys2Proof.Machine
end

/-! The proofs of the family 42_slide: SLIDE1 and the lanes of the subtract-clamp unit as numbers (42_slide.md R170, R175,
R176), the unit (R174, R177), and the command SLIDE (R171 to R173). -/
section
namespace Sys2Proof.Machine

/-! ## SLIDE1 and the lanes, as numbers (42_slide.md R170, R175, R176) -/

/-- SLIDE1 as a number; the subtraction of `Nat` stops at 0, as the clamp does. -/
theorem slide1_toNat (m : Half) (w : Word) : (slide1 m w).toNat = m.toNat - w.toNat := by
  have hm := m.isLt
  have hwide : (m.setWidth 32).toNat = m.toNat := BitVec.toNat_setWidth_of_le (by decide)
  have hempty : emptyEntry.toNat = 0 := rfl
  simp only [slide1, BitVec.le_def, hwide]
  split
  · rw [BitVec.toNat_sub, BitVec.toNat_setWidth]; omega
  · omega

theorem satsub16_toNat (m w16 : Half) : (satsub16 m w16).toNat = m.toNat - w16.toNat := by
  have hzero : (0 : Half).toNat = 0 := rfl
  unfold satsub16
  split
  · next hle => exact BitVec.toNat_sub_of_le hle
  · next hlt => rw [BitVec.le_def] at hlt; omega

theorem wideLane_toNat (m : Half) (w : Word) : (wideLane m w).toNat = m.toNat - w.toNat := by
  have hm := m.isLt
  have hwide : (m.setWidth 32).toNat = m.toNat := BitVec.toNat_setWidth_of_le (by decide)
  have hzero : (0#32).toNat = 0 := rfl
  unfold wideLane
  rw [BitVec.toNat_setWidth]
  split
  · next hle => rw [BitVec.toNat_sub_of_le hle]; omega
  · next hlt => rw [BitVec.le_def] at hlt; omega

/-- WSIZE[15:0] is all of a WSIZE below 2^16. -/
theorem lowHalf_toNat {w : Word} (h : w.toNat < 65536) : (w.extractLsb' 0 16).toNat = w.toNat := by
  rw [BitVec.extractLsb'_toNat, Nat.shiftRight_zero]
  exact Nat.mod_eq_of_lt h

theorem satsub16_eq_slide1 {w : Word} (h : w.toNat < 65536) (m : Half) :
    satsub16 m (w.extractLsb' 0 16) = slide1 m w :=
  BitVec.eq_of_toNat_eq (by rw [satsub16_toNat, lowHalf_toNat h, slide1_toNat])

theorem wideLane_eq_slide1 (m : Half) (w : Word) : wideLane m w = slide1 m w :=
  BitVec.eq_of_toNat_eq (by rw [wideLane_toNat, slide1_toNat])

/-- The source's option (b): subtract, then blend in 0 by a less-than mask. -/
theorem satsub16_eq_blend (m w16 : Half) : satsub16 m w16 = if m < w16 then 0#16 else m - w16 := by
  unfold satsub16
  simp only [← BitVec.not_lt, ite_not]
  rfl

/-- Every entry is below a WSIZE of 2^16 or more. -/
theorem slide1_eq_zero {w : Word} (h : 65536 ≤ w.toNat) (m : Half) : slide1 m w = 0#16 := by
  have hm := m.isLt
  apply BitVec.eq_of_toNat_eq
  rw [slide1_toNat, Nat.sub_eq_zero_of_le (by omega)]
  rfl

/-- Settles O44: the clamp is the subtraction of `Nat`. -/
theorem slide1Value : Obligations.Slide1Value := by
  intro m w
  rw [slide1_toNat]
  split <;> omega

/-- Settles O58: each path is the number that SLIDE1 is. -/
theorem lanePathsEqualSlide1 : Obligations.LanePathsEqualSlide1 := by
  refine fun m w => ⟨fun h => ⟨satsub16_eq_slide1 h m, ?_, satsub16_eq_blend m _⟩,
    fun h => ⟨?_, slide1_eq_zero h m⟩⟩
  · rw [satsub16_toNat, lowHalf_toNat h]
  · rw [wideLane_eq_slide1, slide1_eq_zero h]

/-! ## The subtract-clamp unit (42_slide.md R174, R177) -/

theorem scuLane_eq_slide1 (w : Word) (m : Half) : scuLane w m = slide1 m w := by
  unfold scuLane
  split
  · next hlt => exact satsub16_eq_slide1 hlt m
  · exact wideLane_eq_slide1 m w

/-- The middle slides the entries of its beats. -/
theorem scuBeats_eq_map (lanes : Nat) (wsize : Word) (n : Nat) : ∀ entries : List Half,
    scuBeats lanes wsize n entries = (entries.take (n * lanes)).map (slide1 · wsize) := by
  induction n with
  | zero => intro entries; simp [scuBeats]
  | succ n ih =>
    intro entries
    have hlane : scuLane wsize = (slide1 · wsize) := funext (scuLane_eq_slide1 wsize)
    rw [scuBeats, ih, hlane, ← List.map_append, Nat.succ_mul, Nat.add_comm, List.take_add]

/-- Head, middle and tail are the whole table, in order. -/
theorem scu_eq_map (w : VecBytes) (tbl : Nat) (wsize : Word) (entries : List Half) :
    scu w tbl wsize entries = entries.map (slide1 · wsize) := by
  simp only [scu, scuBeats_eq_map, ← List.map_append]
  rw [← List.take_add, List.take_append_drop]

theorem readEntries_eq_map (m : Memory) (n : Nat) : ∀ a : Nat,
    readEntries m a n = (List.range n).map fun i => readEntry m (a + 2 * i) := by
  induction n with
  | zero => intro a; rfl
  | succ n ih =>
    intro a
    simp [readEntries, ih, List.range_succ_eq_map, Function.comp_def, Nat.mul_succ, Nat.add_assoc, Nat.add_comm 2]

theorem readEntries_slideFrom {m : Memory} {a n : Nat} (w : Word) (hm : Memory.wf m = true)
    (ha : a + 2 * n ≤ addrSpace) :
    readEntries (slideFrom m w a n) a n = (readEntries m a n).map (slide1 · w) := by
  rw [readEntries_eq_map, readEntries_eq_map, List.map_map]
  exact List.map_congr_left fun i hi => readEntry_slideFrom hm ha i (List.mem_range.1 hi)

/-- Settles O59: every part of the unit is SLIDE1 entry by entry, and so is SLIDE over memory. -/
theorem clampUnitComputesSlide : Obligations.ClampUnitComputesSlide := by
  refine ⟨scu_eq_map, fun w m tbl n wsize hm ht => ?_⟩
  rw [scu_eq_map, readEntries_slideFrom wsize hm ht]

/-! ## The command SLIDE (42_slide.md R171 to R173) -/

theorem tblOdd_of_even {s : State} (h : s.tbl.toNat % 2 = 0) : s.tblOdd = false :=
  Bool.eq_false_iff.2 fun hodd => by have := State.tblOdd_iff.1 hodd; omega

theorem execSlide_of_odd {s : State} (h : s.tbl.toNat % 2 = 1) :
    exec .slide s = .next (s.raiseError .align (some s.tbl)) := by
  simp [exec, execSlide, State.tblOdd_iff.2 h]

theorem execSlide_of_not_fits {s : State} (heven : s.tbl.toNat % 2 = 0)
    (h : 2 ^ 32 < s.tbl.toNat + 2 * s.count.toNat) :
    exec .slide s = .next (s.raiseError .range (some s.tbl)) := by
  have hfits : s.tableFits = false :=
    Bool.eq_false_iff.2 fun hf => absurd (State.tableFits_iff.1 hf) (Nat.not_le.2 h)
  simp [exec, execSlide, tblOdd_of_even heven, hfits]

theorem execSlide_of_count_zero {s : State} (heven : s.tbl.toNat % 2 = 0) (h : s.count = 0#32) :
    exec .slide s = .next s.complete := by
  have hfits : s.tableFits = true := State.tableFits_iff.2 (by rw [h]; exact s.tbl.isLt.le)
  simp [exec, execSlide, tblOdd_of_even heven, hfits, h]

/-- Where every access is answered with data SLIDE slides the table; with no entry that is memory itself. -/
theorem execSlide_of_quiet {s : State} (heven : s.tbl.toNat % 2 = 0)
    (hfits : s.tbl.toNat + 2 * s.count.toNat ≤ 2 ^ 32)
    (hquiet : Quiet s.cfg s.tbl.toNat (2 * s.count.toNat)) : exec .slide s = .next (slideDone s) := by
  by_cases h : s.count = 0#32
  · rw [execSlide_of_count_zero heven h, slideDone, h]
    rfl
  · have hreply : s.tableReply = .ok :=
      busReply_ok (fun x h1 h2 => (hquiet x h1 h2).1) fun x h1 h2 => (hquiet x h1 h2).2
    simp [exec, execSlide, tblOdd_of_even heven, State.tableFits_iff.2 hfits, h, hreply]

theorem execSlide_of_firstError {s : State} {e : Nat} (heven : s.tbl.toNat % 2 = 0)
    (hfits : s.tbl.toNat + 2 * s.count.toNat ≤ 2 ^ 32)
    (herr : FirstError s.cfg s.tbl.toNat (2 * s.count.toNat) 2 e) :
    exec .slide s = .next (slideBusError s e) := by
  obtain ⟨⟨hlow, hhigh⟩, hbus, hfirst, hanswered⟩ := herr
  have hcount : s.count ≠ 0#32 := by
    intro h
    rw [h] at hhigh
    exact absurd hhigh (Nat.not_lt.2 hlow)
  have hreply : s.tableReply = .error e := busReply_eq_error hlow hhigh hbus hfirst hanswered
  simp [exec, execSlide, tblOdd_of_even heven, State.tableFits_iff.2 hfits, hcount, hreply]

/-- The interval of R173 is not empty: a beat starts at or below each of its entries, as W is even. -/
theorem busAddrLow_le_entryOf {s : State} {e : Nat} (heven : s.tbl.toNat % 2 = 0) (hlow : s.tbl.toNat ≤ e) :
    busAddrLow s.cfg s.tbl.toNat e ≤ s.entryOf e := by
  have htwo : 2 ∣ s.cfg.vecBytes.bytes := by rw [bytes_eq_lanes]; omega
  have hparity : e % s.cfg.vecBytes.bytes % 2 = e % 2 := Nat.mod_mod_of_dvd e htwo
  unfold State.entryOf
  refine max_le ?_ ?_ <;> omega

/-- The address that a BUS error of SLIDE reports (R173). -/
theorem slideBusError_erraddr_bounds {s : State} {e : Nat} (heven : s.tbl.toNat % 2 = 0) (hlow : s.tbl.toNat ≤ e)
    (he : e < 2 ^ 32) : busAddrLow s.cfg s.tbl.toNat e ≤ (slideBusError s e).erraddr.toNat ∧
      (slideBusError s e).erraddr.toNat ≤ s.entryOf e :=
  drawAddr_bounds (busAddrLow_le_entryOf heven hlow) ((Nat.sub_le _ _).trans_lt he)

/-- An abandoned or failed SLIDE leaves each byte of its table old or slid, and every other byte as it was
(R173, R221). -/
theorem mixedMem_old_or_slid {s : State} (hm : Memory.wf s.mem = true)
    (hfits : s.tbl.toNat + 2 * s.count.toNat ≤ 2 ^ 32) (b : Nat) :
    if s.tbl.toNat ≤ b ∧ b < s.tbl.toNat + 2 * s.count.toNat then
      readByte s.mixedMem b = readByte s.mem b ∨
        readByte s.mixedMem b = readByte (slideFrom s.mem s.wsize s.tbl.toNat s.count.toNat) b
    else readByte s.mixedMem b = readByte s.mem b := by
  rw [readByte_mixedMem hm hfits]
  split
  · split
    · exact .inr rfl
    · exact .inl rfl
  · rfl

/-- Settles O12: one lemma for each ending of the command. -/
theorem slideResult : Obligations.SlideResult := by
  refine ⟨by decide, fun s _ hm => ⟨execSlide_of_odd, execSlide_of_not_fits, execSlide_of_count_zero,
    fun heven hfits hquiet => ?_, fun e heven hfits herr => ?_⟩⟩
  · refine ⟨slideDone s, execSlide_of_quiet heven hfits hquiet, rfl, fun i hi => ?_,
      readByte_slideFrom_outside hm hfits⟩
    rw [slideDone, readEntry_slideFrom hm hfits i hi]
    exact slide1Value _ _
  · have ⟨⟨hlow, hhigh⟩, _⟩ := herr
    exact ⟨slideBusError s e, (slideBusError s e).erraddr, execSlide_of_firstError heven hfits herr,
      slideBusError_erraddr_bounds heven hlow (hhigh.trans_le hfits), rfl, mixedMem_old_or_slid hm hfits⟩

end Sys2Proof.Machine
end

/-! The proofs of the family 60_exceptions: the IRQ level (R196) and the precision of errors (R199). -/
section
namespace Sys2Proof.Machine

/-! ## The IRQ level (60_exceptions.md R196) -/

@[simp] theorem resetTurn_irq (s : State) : (resetTurn s).irq = false := by simp [State.irq]

/-- Settles O28: the bits of STATUS and CTRL are the flags and their enables; a reset clears the three flags. -/
theorem irqLevel : Obligations.IrqLevel := by
  refine ⟨fun s => ?_, rfl, resetTurn_irq⟩
  rw [statusWord_done, statusWord_err, statusWord_ovr, ctrlWord_ieDone, ctrlWord_ieErr, ctrlWord_ieOvr, State.irq]

/-! ## Errors are precise (60_exceptions.md R199) -/

/-- A command that ends with an error leaves ACC as it found it; on success ERR does not rise. -/
theorem CommandEnd.acc_of_err {s t : State} (h : CommandEnd s t) (hs : s.err = false) (ht : t.err = true) :
    t.acc = s.acc := by
  cases h with
  | success acc mem _ => exact nomatch hs.symm.trans ht
  | error code addr mem k _ _ => rfl

/-- The engine writes memory only where a SLIDE has passed its checks: it slides the table, or fails on the bus. -/
theorem engineTurn_mem {s t : State} (h : engineTurn s = .next t) : t.mem = s.mem ∨
    (decode? s.cmd = some .slide ∧ (t = slideDone s ∨ ∃ e, t = slideBusError s e)) := by
  obtain rfl | ⟨-, rfl | ⟨c, a, -, rfl⟩ | ⟨rfl, -⟩ | ⟨e, rfl, -⟩ | ⟨hd, -, ht⟩⟩ := engineTurn_cases h
  case inr.inr.inr.inr.inr => exact .inr ⟨decode?_of_ok hd, ht⟩
  all_goals exact .inl rfl

theorem engineTurn_mem_of_err {s t : State} (h : engineTurn s = .next t) (hs : s.err = false) (ht : t.err = true) :
    t.mem = s.mem ∨ (t.errcode = .bus ∧ decode? s.cmd = some .slide) := by
  obtain hmem | ⟨hd, rfl | ⟨e, rfl⟩⟩ := engineTurn_mem h
  · exact .inl hmem
  · exact nomatch hs.symm.trans ht
  · exact .inr ⟨rfl, hd⟩

/-- Settles O16: a turn that raises ERR ends a command, with a command's frame; of the endings that write memory only
SLIDE's BUS error raises ERR. -/
theorem errorsArePrecise : Obligations.ErrorsArePrecise := by
  intro s t _ _ hs h ht
  refine ⟨?_, engineTurn_mem_of_err h hs ht⟩
  obtain rfl | ⟨-, hend⟩ := engineTurn_ends h
  · exact nomatch hs.symm.trans ht
  · obtain ⟨-, -, -, hsrc, hlen, htbl, hcount, hwsize⟩ := hend.frame
    exact ⟨hend.acc_of_err hs ht, hsrc, hlen, htbl, hcount, hwsize⟩

end Sys2Proof.Machine
end

/-! The proofs of the family 70_reset_and_hazards: what the reset input leaves (R220), and the command it abandons
(R221). -/
section
namespace Sys2Proof.Machine

/-! ## The registers after a reset (70_reset_and_hazards.md R220) -/

/-- A reset clears the registers and, beyond them, changes only memory and the number of the next ending. -/
theorem resetTurn_eq_clearRegs (s : State) :
    resetTurn s = { s.clearRegs with mem := (resetTurn s).mem, endDraws := (resetTurn s).endDraws } := by
  unfold resetTurn
  split <;> rfl

/-- What the port reads after a reset is what it reads of the cleared registers. -/
theorem portRead_resetTurn (s : State) (off : Nat) : (resetTurn s).portRead off = s.clearRegs.portRead off := by
  rw [resetTurn_eq_clearRegs]
  rfl

theorem clearRegs_ctrlWord (s : State) : s.clearRegs.ctrlWord = 0#32 :=
  BitVec.eq_of_toNat_eq (ctrlWord_toNat s.clearRegs)

theorem clearRegs_statusWord (s : State) : s.clearRegs.statusWord = 0#32 :=
  BitVec.eq_of_toNat_eq (statusWord_toNat s.clearRegs)

@[simp] theorem resetTurn_acc (s : State) : (resetTurn s).acc = 1#32 := by rw [resetTurn_eq_clearRegs]; rfl

/-! ## Memory after a reset (70_reset_and_hazards.md R220, R221) -/

/-- A SLIDE that accesses no memory is sliding no table. -/
theorem slidTable_eq_none_of_accessRange {s : State} (h : s.accessRange .slide = none) : s.slidTable = none := by
  refine Option.eq_none_iff_forall_ne_some.2 fun r hs => ?_
  obtain ⟨-, -, hrange⟩ := slidTable_some hs
  exact nomatch h.symm.trans hrange

theorem resetTurn_mem_of_slidTable_none {s : State} (h : s.slidTable = none) : (resetTurn s).mem = s.mem := by
  simp only [resetTurn, h, State.clearRegs]

theorem resetTurn_mem_of_slidTable_some {s : State} {r : Region} (h : s.slidTable = some r) :
    (resetTurn s).mem = s.mixedMem := by
  simp only [resetTurn, h]

/-- A reset leaves each byte of a table that was being slid old or slid, and every other byte as it was. -/
theorem resetTurn_old_or_slid {s : State} {r : Region} (hm : Memory.wf s.mem = true) (h : s.slidTable = some r)
    (a : Nat) :
    if r.holds a then
      readByte (resetTurn s).mem a = readByte s.mem a ∨
        readByte (resetTurn s).mem a = readByte (slideFrom s.mem s.wsize s.tbl.toNat s.count.toNat) a
    else readByte (resetTurn s).mem a = readByte s.mem a := by
  obtain ⟨-, -, hrange⟩ := slidTable_some h
  obtain ⟨rfl, -, hfits, -⟩ := accessRange_slide hrange
  simp only [resetTurn_mem_of_slidTable_some h, Region.holds_iff]
  exact mixedMem_old_or_slid hm hfits a

/-! ## The obligations -/

/-- Settles O4: the port reads the cleared registers, and CAP the configuration, which a reset keeps. -/
theorem resetLeavesTheResetValues : Obligations.ResetLeavesTheResetValues := by
  intro s
  refine ⟨resetTurn s, rfl, ?_⟩
  simp only [portRead_resetTurn]
  exact ⟨rfl, rfl, clearRegs_ctrlWord s, clearRegs_statusWord s, rfl, rfl, rfl, rfl, rfl, rfl, rfl, rfl,
    resetTurn_irq s, resetTurn_hostFaults s, fun h => resetTurn_mem_of_slidTable_none (slidTable_eq_none h)⟩

/-- Settles O5: an abandoned SLIDE that passed its checks was sliding its table; any other command was sliding none. -/
theorem resetWhileBusyAbandons : Obligations.ResetWhileBusyAbandons := by
  intro s _ hm hbusy
  refine ⟨resetTurn s, rfl, resetTurn_busy s, resetTurn_done s, resetTurn_acc s, ?_, ?_⟩
  · intro r hcmd hrange
    exact resetTurn_old_or_slid hm (slidTable_eq_some_iff.2 ⟨hbusy, hcmd, hrange⟩)
  · rintro (hcmd | hrange)
    · exact resetTurn_mem_of_slidTable_none (slidTable_eq_none (.inr hcmd))
    · exact resetTurn_mem_of_slidTable_none (slidTable_eq_none_of_accessRange hrange)

/-- Settles O7: the reference configuration is legal, both sparse maps are empty, and every flag is 0. -/
theorem resetMeetsTheInvariant : Obligations.ResetMeetsTheInvariant :=
  { legal := by decide
    memWf := rfl
    regsWf := rfl
    codeIffErr := iff_of_true rfl rfl
    busyClear := nofun }

end Sys2Proof.Machine
end
